-- ==== Sys2Proof/Word.lean ====
section
/-!
DEFINITION. Word.lean: the widths the block moves.

A byte is 8 bits (R7), a port word 32 bits and a port index 14 bits (R10, R36); an index register
of the sequencer is 13 bits wide (R23), a base-58 digit cell and the two running remainders are 6
bits wide (R23, R28), an opcode is 3 bits wide (R23, R54), a length field 16 bits (R18, R19).
-/

namespace Sys2Proof

/-- An 8-bit value: one cell of `BBUF`, `CBUF` or `W`, one character code (R7, R39). -/
abbrev Byte := BitVec 8

/-- A 32-bit value: what one host access moves (R36), and a word of SHA-256 (R96). -/
abbrev Word := BitVec 32

/-- A word index of the host port (R36 (c)). -/
abbrev PortIndex := BitVec 14

/-- An index register of the sequencer, wide enough for 0 to 4096 (R23). -/
abbrev Index := BitVec 13

/-- A 6-bit value: a digit cell of `D` (R28), `REM`, `CARRY` (R23), `SB`, `SNB` (R29). -/
abbrev Digit := BitVec 6

/-- A 3-bit opcode, and a 3-bit cause code (R54, R120). -/
abbrev Code := BitVec 3

end Sys2Proof
end

