-- ==== Sys2Proof/Config.lean ====
section
/-!
DEFINITION. Config.lean: what an implementation fixes, the constants of the document, and the
values the spec leaves open.

The configuration record is `(NB, NC, ALPHA)` (00_scope.md section 4). It is held in `State` as a
field that no step changes, so that a statement about every state is a statement about every block
the parameter ranges of R5, R6 and R8 admit.
-/

namespace Sys2Proof

/-- The parameters of one block (R5, R6, R8). -/
structure Config where
  /-- `NB`: capacity in bytes of `BBUF` and of the hidden buffer `W` (R5). -/
  nb : Nat
  /-- `NC`: capacity in characters of `CBUF` and of the hidden buffer `D` (R6). -/
  nc : Nat
  /-- `ALPHA`: the character code of each digit value 0 to 57 (R8). -/
  alpha : List Byte
deriving DecidableEq, Repr

namespace Config

/-- `CKLEN`: the length of a checksum in bytes (R9). -/
def ckLen : Nat := 4

/-- What `BBUF[i]` holds after the `epoch`-th reset until the cell is written: some 8-bit value,
the same at every read, and nothing says which (R34, U1). A FREE VALUE, assumption 3. -/
opaque freeBbufCell (epoch i : Nat) : Byte

/-- What `CBUF[i]` holds after the `epoch`-th reset until the cell is written (R34, U1).
A FREE VALUE, assumption 3. -/
opaque freeCbufCell (epoch i : Nat) : Byte

/-- What the `n`-th unspecified read returns: a host read of `BLEN`, `CLEN`, a cell of `BBUF` or of
`CBUF` while a command runs (R49, U2), or any host read made in a reset period (R135, U8).
A FREE VALUE, assumption 4. -/
opaque freeReadWord (n : Nat) : Word

end Config

end Sys2Proof
end

