-- ==== Sys2Proof/Syntax.lean ====
section
/-!
DEFINITION. Syntax.lean: the five commands (R55), the fields of a command word (R54), and the host
script (R60): the accesses a host can make at the port and the pseudo-lines that stand for them.
-/

namespace Sys2Proof

/-- The five commands of the block, one per row of spec/opcode_table.json (R2, R55).
No command has an operand (R56). -/
inductive Instr where
  /-- `B58ENC`, command word 0x01: `b58encode` (R63). -/
  | b58enc
  /-- `B58DEC`, command word 0x02: `b58decode` (R79). -/
  | b58dec
  /-- `B58CHK_ENC`, command word 0x03: `b58check_encode` (R109). -/
  | b58chkEnc
  /-- `B58CHK_DEC`, command word 0x04: `b58check_decode` (R111). -/
  | b58chkDec
  /-- `B58CHK_VALID`, command word 0x05: `b58check_address_is_valid` (R115). -/
  | b58chkValid
deriving DecidableEq, Repr

/-- Format `C`: the two fields of a command word (R54). -/
structure CommandWord where
  /-- Bits 7:3, which must be 0. -/
  zero : BitVec 5
  /-- Bits 2:0, the opcode. -/
  opc : Code
deriving DecidableEq, Repr

/-- Why a byte is not a command word (R58). -/
inductive DecodeError where
  /-- There is no byte to decode. -/
  | truncated
  /-- `ZERO` is not 0: illegal whatever `OPC` is (0x08 to 0xFF). -/
  | zeroFieldNotZero (zero : BitVec 5)
  /-- `ZERO` is 0 and `OPC` is none of the five opcodes (0x00, 0x06, 0x07). -/
  | undefinedOpcode (opc : Code)
deriving DecidableEq, Repr

/-- One access at the host port (R36 (c), R38). -/
inductive Access where
  /-- `WR index, value`: `HostWrite(index, value)`. -/
  | write (index : PortIndex) (value : Word)
  /-- `RD index`: `HostRead(index)`. -/
  | read (index : PortIndex)
deriving DecidableEq, Repr

/-- One line of the schedule that drives the block. The two agents' executions interleave (R47);
the schedule says which of them moves next, so that every interleaving is some schedule. -/
inductive ScriptLine where
  /-- The host makes one access. -/
  | access (a : Access)
  /-- The sequencer makes one step (R24). -/
  | sequencer
  /-- The pseudo-line `WAIT`: `RD STATUS` repeated until the value read has `DONE` = 1 (R60). -/
  | wait
  /-- The pseudo-line `RUN`: `WR CMD, word`, then `WAIT` (R60), the command taken at operation
  level: from the state at its acceptance to the state at its completion in one step. -/
  | run (word : Word)
  /-- One clock period with `rst` = 1, in which the host may make an access that is lost (R135). -/
  | rst (lost : Option Access)
deriving DecidableEq, Repr

end Sys2Proof
end

