-- ==== Sys2Proof/WellFormed.lean ====
section
/-!
DEFINITION. WellFormed.lean: the checks on configurations, command words and commands.
-/

namespace Sys2Proof

namespace Config

/-- `NB` is in its range (R5). -/
abbrev nbInRange (c : Config) : Prop := 4 ≤ c.nb ∧ c.nb ≤ 2730

/-- `NC` is in its range: `ceil(3 * NB / 2) <= NC <= 4096` (R6). -/
abbrev ncInRange (c : Config) : Prop := (3 * c.nb + 1) / 2 ≤ c.nc ∧ c.nc ≤ 4096

/-- `ALPHA` is 58 distinct characters (R8). -/
abbrev alphaDistinct (c : Config) : Prop := c.alpha.length = 58 ∧ c.alpha.Nodup

/-- A configuration the spec admits (R5, R6, R8). -/
abbrev wf (c : Config) : Prop := c.nbInRange ∧ c.ncInRange ∧ c.alphaDistinct

end Config

namespace CommandWord

/-- `ZERO` holds 0b00000 (R54). -/
abbrev zeroOk (c : CommandWord) : Prop := c.zero = 0

/-- `OPC` is one of the five opcodes (R55). -/
abbrev opcOk (c : CommandWord) : Prop := 1 ≤ c.opc.toNat ∧ c.opc.toNat ≤ 5

/-- A command word the opcode map defines (R55, R58). -/
abbrev wf (c : CommandWord) : Prop := c.zeroOk ∧ c.opcOk

end CommandWord

/-- Every command is well formed: it has no register field, no immediate and no mode bit that could
be out of range (R54, R56). -/
def Instr.wf (i : Instr) : Bool :=
  match i with
  | .b58enc => true
  | .b58dec => true
  | .b58chkEnc => true
  | .b58chkDec => true
  | .b58chkValid => true

end Sys2Proof
end

