-- ==== Sys2Proof/Decode.lean ====
section
/-!
DEFINITION. Decode.lean: from a command word to a command and back (R54, R55, R58).

`decode` is total on any bytes: it answers a command and the bytes after it, or says by name why
the byte is no command word. A byte is the part `v[7:0]` of a word `v` written to `CMD` (R15).
-/

namespace Sys2Proof

/-- The fields of a command word (R54). -/
def commandFields (b : Byte) : CommandWord :=
  { zero := b.extractLsb' 3 5, opc := b.extractLsb' 0 3 }

/-- The command word with the given fields (R54). -/
def commandByte (c : CommandWord) : Byte := c.zero.setWidth 8 <<< 3 ||| c.opc.setWidth 8

/-- The opcode of a command (R55). -/
def opcodeOf (i : Instr) : Code :=
  match i with
  | .b58enc => 1
  | .b58dec => 2
  | .b58chkEnc => 3
  | .b58chkDec => 4
  | .b58chkValid => 5

/-- The command an opcode stands for (R55). -/
def instrOfOpcode (opc : Code) : Option Instr :=
  match opc.toNat with
  | 1 => some .b58enc
  | 2 => some .b58dec
  | 3 => some .b58chkEnc
  | 4 => some .b58chkDec
  | 5 => some .b58chkValid
  | _ => none

/-- The command a command word stands for: the whole 8-bit word is matched, and a word whose `ZERO`
field is not 0 is illegal whatever its opcode is (R54, R55, R58). -/
def decodeCommand (b : Byte) : Except DecodeError Instr :=
  let c := commandFields b
  if c.zero = 0 then
    match instrOfOpcode c.opc with
    | some i => .ok i
    | none => .error (.undefinedOpcode c.opc)
  else .error (.zeroFieldNotZero c.zero)

/-- Decoding of a byte sequence: the command of its first byte, and the rest. -/
def decode (bytes : List Byte) : Except DecodeError (Instr × List Byte) :=
  match bytes with
  | [] => .error .truncated
  | b :: rest =>
    match decodeCommand b with
    | .ok i => .ok (i, rest)
    | .error e => .error e

/-- The command word that a word written to `CMD` presents: its bits 7:0; bits 31:8 are ignored
(R15). -/
def commandOfPortWord (v : Word) : Byte := v.setWidth 8

/-- The command word of a command (R55), as a byte sequence. -/
def encode (i : Instr) : List Byte := [commandByte { zero := 0, opc := opcodeOf i }]

/-- The word a host writes to `CMD` for a command (R60: a mnemonic stands for its command word). -/
def portWord (i : Instr) : Word := (commandByte { zero := 0, opc := opcodeOf i }).setWidth 32

/-- The port word whose low bits are the low `nbits` bits of `w`. -/
def portWordOfBits (nbits w : Nat) : Word := BitVec.ofNat 32 (w % 2 ^ nbits)

/-- The command the decoder reads from an opcode-table word: the byte at `CMD` bits 7:0. -/
def decodeTableWord (nbits w : Nat) : Option Instr :=
  match decode [commandOfPortWord (portWordOfBits nbits w)] with
  | .ok (i, _) => some i
  | .error _ => none

/-- The mnemonic of a command (R55, R60). -/
def mnemonicOf (i : Instr) : String :=
  match i with
  | .b58enc => "B58ENC"
  | .b58dec => "B58DEC"
  | .b58chkEnc => "B58CHK_ENC"
  | .b58chkDec => "B58CHK_DEC"
  | .b58chkValid => "B58CHK_VALID"

/-- The document's function name of a command, accepted in a host script in the mnemonic's place
(R60). -/
def functionNameOf (i : Instr) : String :=
  match i with
  | .b58enc => "b58encode"
  | .b58dec => "b58decode"
  | .b58chkEnc => "b58check_encode"
  | .b58chkDec => "b58check_decode"
  | .b58chkValid => "b58check_address_is_valid"

/-- The command a script names, by its mnemonic or by the document's function name (R60). -/
def instrOfName (name : String) : Option Instr :=
  [Instr.b58enc, .b58dec, .b58chkEnc, .b58chkDec, .b58chkValid].find?
    fun i => name == mnemonicOf i || name == functionNameOf i

end Sys2Proof
end

