-- ==== Sys2Proof/Machine/Alphabet.lean ====
section
/-!
DEFINITION. Machine/Alphabet.lean: the alphabet table (R8, R31), its two look-ups, and the default
parameters (R5, R6).
-/

namespace Sys2Proof.Machine

/-- The standard 58-character alphabet as ASCII codes: `1`-`9`, `A`-`H`, `J`-`N`, `P`-`Z`, `a`-`k`,
`m`-`z`, in that order (R8, R31). The codes: PRESUMED, assumption 10. -/
def bitcoinAlphabet : List Byte :=
  [0x31, 0x32, 0x33, 0x34, 0x35, 0x36, 0x37, 0x38, 0x39] ++
  [0x41, 0x42, 0x43, 0x44, 0x45, 0x46, 0x47, 0x48] ++
  [0x4A, 0x4B, 0x4C, 0x4D, 0x4E] ++
  [0x50, 0x51, 0x52, 0x53, 0x54, 0x55, 0x56, 0x57, 0x58, 0x59, 0x5A] ++
  [0x61, 0x62, 0x63, 0x64, 0x65, 0x66, 0x67, 0x68, 0x69, 0x6A, 0x6B] ++
  [0x6D, 0x6E, 0x6F, 0x70, 0x71, 0x72, 0x73, 0x74, 0x75, 0x76, 0x77, 0x78, 0x79, 0x7A]

/-- The default parameters: `NB` = 128, `NC` = 192 (R5, R6) and the standard alphabet (R8). -/
def defaultConfig : Config := { nb := 128, nc := 192, alpha := bitcoinAlphabet }

/-- `ALPHA[d]`, the character of the digit value `d` (R8). -/
def alphaAt (c : Config) (d : Nat) : Byte := c.alpha.getD d 0

/-- `idx(ch)`: the index of the character in the alphabet, or none (R12, R32). -/
def alphaIndex (c : Config) (ch : Byte) : Option Nat := c.alpha.idxOf? ch

end Sys2Proof.Machine
end

