-- ==== Sys2Proof/Machine/State.lean ====
section
/-!
DEFINITION. Machine/State.lean: the complete state of one block (R13), the host's side of it that
the model holds as data, why a step can stop, and the state after reset (R33, R34, R35).
-/

namespace Sys2Proof.Machine

/-- Why the machine stops with a fault: never. The block has no stuck state and no access fault: an
undefined command word, a reserved index and a failing command all have a defined effect (R43, R59,
R128; 93_implementation_defined.md, the end of part 1). The type has no constructor, so no step can
answer a fault; the difference from the hardware is none (safe). DEDUCED, assumption 9. -/
inductive Fault : Type
deriving DecidableEq, Repr

/-- Why the machine refuses an instruction. -/
inductive Refusal where
  /-- Raised by an arm of `exec` whose instruction has no meaning yet; no arm raises it in this
  model. Safe: a refusal proves nothing about what the hardware does. -/
  | notModelled (mnemonic : String)
deriving DecidableEq, Repr

/-- The phases of the sequencer; `PH` takes the place of a program counter (R24, R62). -/
inductive Phase where
  | idle
  | encInit | encCopy | encZeros | encNext | encDiv | encSkip | encEmit
  | decInit | decScan | decZeros | decNext | decMul | decFit | decPad | decCommit
  | csInit | csH1 | csH2
  | csAppend | chkLen | chkCmp
deriving DecidableEq, Repr

/-- The error causes (R120). `InvalidInputType` is in the numbering and no command raises it
(R121). -/
inductive Cause where
  | invalidInputType
  | invalidCharacter
  | insufficientLength
  | checksumMismatch
  | capacityExceeded
  | illegalCommand
deriving DecidableEq, Repr

/-- A failure a command detects: `raise E(pos, char)` of the rules (R78, R128). -/
structure Failure where
  cause : Cause
  pos : Nat
  char : Byte
deriving DecidableEq, Repr

/-- The fields of `STATUS` (R16). Its reserved bits are no state: they read 0. -/
structure Status where
  busy : Bool
  done : Bool
  valid : Bool
  err : Code
deriving DecidableEq, Repr

/-- The fields of `ERRINFO` (R17). Its reserved bits are no state: they read 0. -/
structure ErrInfo where
  cause : Code
  char : Byte
  pos : BitVec 16
deriving DecidableEq, Repr

/-- What a word index of the host port names (R37). -/
inductive PortSlot where
  | cmd
  | status
  | errinfo
  | blen
  | clen
  | cap
  | bbuf (i : Nat)
  | cbuf (i : Nat)
  | reserved
deriving DecidableEq, Repr

/-- A byte buffer of the host port: the cells that have been written since reset, by rising index,
none listed twice. A cell that is not listed has not been written. DESIGN CHOICE, assumption 3. -/
abbrev Memory := List Host.Cell

/-- The sequencer's datapath registers (R23). -/
structure Datapath where
  n0 : Index
  n : Index
  m : Index
  nz : Index
  start : Index
  i : Index
  j : Index
  k : Index
  rem : Digit
  carry : Digit
  dl : Index
  wl : Index
  rl : Index
  outl : Index
  mb : Index
  ml : Index
  ret : Phase
deriving DecidableEq, Repr

/-- Eight 32-bit words: a SHA-256 hash value `H[0..8)` (R29, R98). -/
structure Hash where
  h0 : Word
  h1 : Word
  h2 : Word
  h3 : Word
  h4 : Word
  h5 : Word
  h6 : Word
  h7 : Word
deriving DecidableEq, Repr

/-- The checksum unit's registers (R29). -/
structure ShaUnit where
  h : Hash
  sb : Digit
  snb : Digit
  dg1 : List Byte
  ck : List Byte
deriving DecidableEq, Repr

/-- The state of one block (R13), its parameters, and the host's side. -/
structure State where
  /-- The parameters; no step changes them (R5, R6, R8). DESIGN CHOICE, assumption 7. -/
  cfg : Config
  /-- `STATUS` (R16). -/
  status : Status
  /-- `ERRINFO` (R17). -/
  errinfo : ErrInfo
  /-- `BLEN.LEN` (R18). -/
  blen : BitVec 16
  /-- `CLEN.LEN` (R19). -/
  clen : BitVec 16
  /-- `BBUF` (R25). -/
  bbuf : Memory
  /-- `CBUF` (R26). -/
  cbuf : Memory
  /-- `PH` (R24). -/
  ph : Phase
  /-- `OP` (R23). -/
  op : Code
  /-- The datapath registers (R23). -/
  dp : Datapath
  /-- The checksum unit's registers (R29). -/
  sha : ShaUnit
  /-- `W`, `NB` cells, `W[i]` at position `i` (R27). -/
  w : List Byte
  /-- `D`, `NC` cells, `D[i]` at position `i` (R28). -/
  d : List Digit
  /-- The schedule still to run: the host's lines and the sequencer's turns (R47, R60).
  The model's own field. DESIGN CHOICE, assumption 5. -/
  script : List ScriptLine
  /-- The words the host's reads have returned, the newest first (R38). The model's own field.
  DESIGN CHOICE, assumption 5. -/
  readLog : List Word
  /-- How many resets there have been; it selects the free contents of the buffers (R34, U1).
  The model's own field. DESIGN CHOICE, assumption 3. -/
  epoch : Nat
  /-- How many unspecified reads there have been; it selects the next free word (R49, U2).
  The model's own field. DESIGN CHOICE, assumption 4. -/
  draws : Nat
deriving DecidableEq, Repr

/-- The datapath registers after reset: unspecified and unobservable (R35); 0, `RET` = `IDLE`.
DESIGN CHOICE, assumption 2. -/
def Datapath.cleared : Datapath :=
  { n0 := 0, n := 0, m := 0, nz := 0, start := 0, i := 0, j := 0, k := 0, rem := 0, carry := 0,
    dl := 0, wl := 0, rl := 0, outl := 0, mb := 0, ml := 0, ret := .idle }

/-- The checksum unit's registers after reset: unspecified and unobservable (R35); 0.
DESIGN CHOICE, assumption 2. -/
def ShaUnit.cleared : ShaUnit :=
  { h := { h0 := 0, h1 := 0, h2 := 0, h3 := 0, h4 := 0, h5 := 0, h6 := 0, h7 := 0 }
    sb := 0, snb := 0, dg1 := List.replicate 32 0, ck := List.replicate 4 0 }

/-- The reset state of a block with the given parameters: idle and empty (R33), the buffers
unspecified (R34), the hidden registers unspecified (R35). The schedule is empty: the block waits in
`IDLE` for the host. The model's own fields: DESIGN CHOICE, assumption 12. -/
def State.resetOf (c : Config) : State :=
  { cfg := c
    status := { busy := false, done := false, valid := false, err := 0 }
    errinfo := { cause := 0, char := 0, pos := 0 }
    blen := 0
    clen := 0
    bbuf := []
    cbuf := []
    ph := .idle
    op := 0
    dp := Datapath.cleared
    sha := ShaUnit.cleared
    w := List.replicate c.nb 0
    d := List.replicate c.nc 0
    script := []
    readLog := []
    epoch := 0
    draws := 0 }

/-- The machine right after reset, with the default parameters (R5, R6, R33). -/
def State.reset : State := State.resetOf defaultConfig

end Sys2Proof.Machine
end

