-- ==== Sys2Proof/Machine/Flags.lean ====
section
/-!
DEFINITION. Machine/Flags.lean: the codes of the causes, the register words of `STATUS`, `ERRINFO`
and `CAP`, and every value of `STATUS` and `ERRINFO` the rules assign (R16, R17, R20, R21, R120).
-/

namespace Sys2Proof.Machine

/-- The 3-bit code of a cause, in `STATUS.ERR` and `ERRINFO.CAUSE` (R120). -/
def causeCode (c : Cause) : Code :=
  match c with
  | .invalidInputType => 1
  | .invalidCharacter => 2
  | .insufficientLength => 3
  | .checksumMismatch => 4
  | .capacityExceeded => 5
  | .illegalCommand => 6

/-- `STATUS` as a port word: `BUSY` 0, `DONE` 1, `VALID` 2, bit 3 zero, `ERR` 6:4, the rest zero
(R16). -/
def statusWord (st : Status) : Word :=
  (BitVec.ofBool st.busy).setWidth 32 ||| (BitVec.ofBool st.done).setWidth 32 <<< 1 |||
    (BitVec.ofBool st.valid).setWidth 32 <<< 2 ||| st.err.setWidth 32 <<< 4

/-- `ERRINFO` as a port word: `POS` 15:0, `CHAR` 23:16, `CAUSE` 26:24, the rest zero (R17). -/
def errInfoWord (e : ErrInfo) : Word :=
  e.pos.setWidth 32 ||| e.char.setWidth 32 <<< 16 ||| e.cause.setWidth 32 <<< 24

/-- `CAP` as a port word: `NB` 15:0, `NC` 31:16 (R20). -/
def capWord (c : Config) : Word :=
  (BitVec.ofNat 16 c.nb).setWidth 32 ||| (BitVec.ofNat 16 c.nc).setWidth 32 <<< 16

/-- `ERRINFO` = 0 (R57). -/
def errInfoClear : ErrInfo := { cause := 0, char := 0, pos := 0 }

/-- `STATUS` from the acceptance of a command on (R57). -/
def statusRunning : Status := { busy := true, done := false, valid := false, err := 0 }

/-- `STATUS` after the FAIL completion of the command with opcode `op`: the validator's failures
leave `ERR` = 0 (R128, R130). -/
def statusFailed (op : Code) (c : Cause) : Status :=
  { busy := false, done := true, valid := false, err := if op = 5 then 0 else causeCode c }

/-- `ERRINFO` after the FAIL completion (R128). -/
def errInfoFailed (f : Failure) : ErrInfo :=
  { cause := causeCode f.cause, char := f.char, pos := BitVec.ofNat 16 f.pos }

/-- `STATUS` after the OK completion: `ERR` and `VALID` keep what they hold (R129). -/
def statusCompleted (st : Status) : Status := { st with busy := false, done := true }

/-- `STATUS` after an illegal command word (R59). -/
def statusIllegal : Status :=
  { busy := false, done := true, valid := false, err := causeCode .illegalCommand }

/-- `ERRINFO` after an illegal command word (R59). -/
def errInfoIllegal : ErrInfo := { cause := causeCode .illegalCommand, char := 0, pos := 0 }

end Sys2Proof.Machine
end

