-- ==== Sys2Proof/Machine/Ops.lean ====
section
/-!
DEFINITION. Machine/Ops.lean: the buffers' cells, the host port, acceptance, the two completion
steps, the illegal-command step and reset.

The completion steps are the block's exception entry (60_exceptions.md section 3): a failing command
takes the FAIL completion `failWith`, which every step rule and every meaning shares. The return
from it is the next write to `CMD` that is not ignored (R131): `accept` or `illegalCommand`.
-/

namespace Sys2Proof.Machine

/-! ### A buffer of bytes -/

/-- The value written to cell `i`, or none for a cell that has not been written. -/
def Memory.read (m : Memory) (i : Nat) : Option Byte :=
  match m with
  | [] => none
  | (a, v) :: rest => if a = i then some v else Memory.read rest i

/-- The cells with cell `i` set to `v`, by rising index. -/
def Memory.insert (m : Memory) (i : Nat) (v : Byte) : Memory :=
  match m with
  | [] => [(i, v)]
  | (a, u) :: rest =>
    if i < a then (i, v) :: (a, u) :: rest
    else if i = a then (i, v) :: rest
    else (a, u) :: Memory.insert rest i v

/-- `X[i] <- v` on a buffer of `size` cells (R46). There is no cell at or above `size`, and
no step rule computes such an index: DEDUCED, assumption 8. -/
def Memory.write (size : Nat) (m : Memory) (i : Nat) (v : Byte) : Memory :=
  if i < size then Memory.insert m i v else m

/-- The cells from `base` on set to the bytes of `vs`, in that order. -/
def Memory.writeAll (size : Nat) (m : Memory) (base : Nat) (vs : List Byte) : Memory :=
  match vs with
  | [] => m
  | v :: rest => Memory.writeAll size (Memory.write size m base v) (base + 1) rest

/-- The canonical form of a buffer of `size` cells: rising indices, each below `size`. -/
abbrev Memory.wf (size : Nat) (m : Memory) : Prop :=
  (m.map Prod.fst).Pairwise (· < ·) ∧ ∀ a ∈ m.map Prod.fst, a < size

/-- `BBUF[i]` (R25); a cell never written since reset holds its free value (R34, U1). -/
def readBbuf (s : State) (i : Nat) : Byte :=
  (Memory.read s.bbuf i).getD (Config.freeBbufCell s.epoch i)

/-- `CBUF[i]` (R26); a cell never written since reset holds its free value (R34, U1). -/
def readCbuf (s : State) (i : Nat) : Byte :=
  (Memory.read s.cbuf i).getD (Config.freeCbufCell s.epoch i)

/-- `BBUF[i] <- v` (R46). -/
def writeBbuf (i : Nat) (v : Byte) (s : State) : State :=
  { s with bbuf := Memory.write s.cfg.nb s.bbuf i v }

/-- `CBUF[i] <- v` (R46). -/
def writeCbuf (i : Nat) (v : Byte) (s : State) : State :=
  { s with cbuf := Memory.write s.cfg.nc s.cbuf i v }

/-! ### Acceptance and completion -/

/-- Acceptance of a command (R57). -/
def accept (i : Instr) (s : State) : State :=
  { s with
    status := statusRunning
    errinfo := errInfoClear
    op := opcodeOf i
    ph := match i with
      | .b58enc | .b58chkEnc => .encInit
      | .b58dec | .b58chkDec | .b58chkValid => .decInit }

/-- The illegal-command step (R59). -/
def illegalCommand (s : State) : State :=
  { s with status := statusIllegal, errinfo := errInfoIllegal }

/-- The FAIL completion `raise E(pos, char)` (R128): the report is written, the destination length
of the command `OP` names is set to 0, and control goes to `IDLE`. -/
def failWith (f : Failure) (s : State) : State :=
  { s with
    errinfo := errInfoFailed f
    status := statusFailed s.op f.cause
    clen := if s.op = 1 ∨ s.op = 3 then 0 else s.clen
    blen := if s.op = 2 ∨ s.op = 4 then 0 else s.blen
    ph := .idle }

/-- The OK completion `complete` (R129). -/
def complete (s : State) : State :=
  { s with status := statusCompleted s.status, ph := .idle }

/-- `STATUS.VALID <- 1` (R114, R115). -/
def setValid (s : State) : State := { s with status := { s.status with valid := true } }

/-- The failure of a test of capacity (R125). -/
def capacityFailure : Failure := { cause := .capacityExceeded, pos := 0, char := 0 }

/-! ### The host port -/

/-- The address map of the port (R37). -/
def portSlot (c : Config) (a : PortIndex) : PortSlot :=
  if a.toNat = 0 then .cmd
  else if a.toNat = 1 then .status
  else if a.toNat = 2 then .errinfo
  else if a.toNat = 3 then .blen
  else if a.toNat = 4 then .clen
  else if a.toNat = 5 then .cap
  else if 0x1000 ≤ a.toNat ∧ a.toNat < 0x1000 + c.nb then .bbuf (a.toNat - 0x1000)
  else if 0x2000 ≤ a.toNat ∧ a.toNat < 0x2000 + c.nc then .cbuf (a.toNat - 0x2000)
  else .reserved

/-- Whether a slot holds data, whose reads are unspecified while a command runs (R49). -/
def isDataSlot (p : PortSlot) : Bool :=
  match p with
  | .blen | .clen | .bbuf _ | .cbuf _ => true
  | .cmd | .status | .errinfo | .cap | .reserved => false

/-- The word a slot holds (R38). -/
def slotWord (s : State) (p : PortSlot) : Word :=
  match p with
  | .cmd => 0
  | .status => statusWord s.status
  | .errinfo => errInfoWord s.errinfo
  | .blen => s.blen.setWidth 32
  | .clen => s.clen.setWidth 32
  | .cap => capWord s.cfg
  | .bbuf i => (readBbuf s i).setWidth 32
  | .cbuf i => (readCbuf s i).setWidth 32
  | .reserved => 0

/-- Whether the value of a host read is unspecified (R49). -/
def readUnspecified (s : State) (a : PortIndex) : Bool :=
  s.status.busy && isDataSlot (portSlot s.cfg a)

/-- The word `HostRead(a)` returns (R38), a free value where it is unspecified (R49). -/
def hostReadValue (s : State) (a : PortIndex) : Word :=
  if readUnspecified s a then Config.freeReadWord s.draws else slotWord s (portSlot s.cfg a)

/-- `HostRead(a)`: the word is returned to the host, and no state of the block changes (R45). -/
def hostRead (a : PortIndex) (s : State) : State :=
  { s with
    readLog := hostReadValue s a :: s.readLog
    draws := if readUnspecified s a then s.draws + 1 else s.draws }

/-- The write of the word `v` to `CMD` while no command runs: acceptance (R57) or the
illegal-command step (R59). -/
def writeCommand (v : Word) (s : State) : State :=
  match decodeCommand (commandOfPortWord v) with
  | .ok i => accept i s
  | .error _ => illegalCommand s

/-- `HostWrite(a, v)`: ignored while a command runs (R48), else as R38 says. -/
def hostWrite (a : PortIndex) (v : Word) (s : State) : State :=
  if s.status.busy then s
  else
    match portSlot s.cfg a with
    | .cmd => writeCommand v s
    | .blen => { s with blen := v.setWidth 16 }
    | .clen => { s with clen := v.setWidth 16 }
    | .bbuf i => writeBbuf i (v.setWidth 8) s
    | .cbuf i => writeCbuf i (v.setWidth 8) s
    | .status | .errinfo | .cap | .reserved => s

/-- One access of the host (R36 (c)). -/
def hostAccess (x : Access) (s : State) : State :=
  match x with
  | .write a v => hostWrite a v s
  | .read a => hostRead a s

/-- The output `done` (R36 (d), R132). -/
def doneOutput (s : State) : Bool := s.status.done

/-! ### Reset -/

/-- A clock period with `rst` = 1 (R135): the reset state, with the buffers' free contents drawn
anew. The schedule, the host's log and the counters are the host's side and go on: DESIGN CHOICE,
assumption 11. -/
def resetBlock (s : State) : State :=
  { State.resetOf s.cfg with
    script := s.script
    readLog := s.readLog
    epoch := s.epoch + 1
    draws := s.draws }

/-- The access made in a reset period: a write is ignored, a read returns an unspecified word
(R135, U8). -/
def lostAccess (x : Option Access) (s : State) : State :=
  match x with
  | some (.read _) =>
    { s with readLog := Config.freeReadWord s.draws :: s.readLog, draws := s.draws + 1 }
  | some (.write _ _) => s
  | none => s

end Sys2Proof.Machine
end

