-- ==== Sys2Proof/Machine/Operands.lean ====
section
/-!
DEFINITION. Machine/Operands.lean: where a command finds its input and leaves its result (R56). No
command has an explicit operand.
-/

namespace Sys2Proof.Machine

/-- `BBUF[0..n)`. -/
def bytesBelow (s : State) (n : Nat) : List Byte := (List.range n).map (readBbuf s)

/-- `CBUF[0..m)`. -/
def charsBelow (s : State) (m : Nat) : List Byte := (List.range m).map (readCbuf s)

/-- The source of `B58ENC` and `B58CHK_ENC`: `BBUF[0..BLEN)`. -/
def sourceBytes (s : State) : List Byte := bytesBelow s s.blen.toNat

/-- The source of `B58DEC`, `B58CHK_DEC` and `B58CHK_VALID`: `CBUF[0..CLEN)`. -/
def sourceChars (s : State) : List Byte := charsBelow s s.clen.toNat

/-- The destination of the encoders, written on success: `CBUF[0..len(out)) <- out`, `CLEN`. -/
def deliverChars (out : List Byte) (s : State) : State :=
  { s with
    cbuf := Memory.writeAll s.cfg.nc s.cbuf 0 out
    clen := BitVec.ofNat 16 out.length }

/-- The destination of the decoders, written on success: `BBUF[0..len(out)) <- out`, `BLEN`. -/
def deliverBytes (out : List Byte) (s : State) : State :=
  { s with
    bbuf := Memory.writeAll s.cfg.nb s.bbuf 0 out
    blen := BitVec.ofNat 16 out.length }

/-- A command at operation level: from the state at its acceptance to the state at its completion
(00_scope.md section 9, "Which level is normative"). `body` is the command's rule, run on the
accepted state; the write to `CMD` is ignored while another command runs (R48). The hidden scratch
state is left as it is: DESIGN CHOICE, assumption 1. -/
def runCommand (i : Instr) (body : State → State) (s : State) : Host.Outcome State Fault Refusal :=
  if s.status.busy then .next s else .next (body (accept i s))

end Sys2Proof.Machine
end

