-- ==== Sys2Proof/Machine/BaseConv.lean ====
section
/-!
DEFINITION. Machine/BaseConv.lean: the pure functions on byte sequences and naturals (R11, R12), and
the two conversions of the codec (R63, R78).
-/

namespace Sys2Proof.Machine

/-- `nzeros(s)`: the number of leading zero bytes (R11). -/
def nzeros (s : List Byte) : Nat := (s.takeWhile (· == 0)).length

/-- The number of leading zero digits (R78). -/
def nzeroDigits (d : List Nat) : Nat := (d.takeWhile (· == 0)).length

/-- `be2nat(s)`: the big-endian number of a byte sequence (R11). -/
def be2nat (s : List Byte) : Nat := s.foldl (fun v b => v * 256 + b.toNat) 0

/-- `digits2nat(d)`: multiply by 58 and add, most significant digit first (R12). -/
def digits2nat (d : List Nat) : Nat := d.foldl (fun v x => v * 58 + x) 0

/-- The digits of `v` in a base, most significant first, with no leading zero digit. The first
argument bounds the number of divisions; `v` itself is enough for any base above 1. -/
def digitsIn (base : Nat) : Nat → Nat → List Nat
  | 0, _ => []
  | fuel + 1, v => if v = 0 then [] else digitsIn base fuel (v / base) ++ [v % base]

/-- `digits58(v)` (R11). -/
def digits58 (v : Nat) : List Nat := digitsIn 58 v v

/-- `nat2be(v)`: the minimal big-endian byte sequence of `v` (R12). -/
def nat2be (v : Nat) : List Byte := (digitsIn 256 v v).map (BitVec.ofNat 8)

/-- The output of the encoder for the byte sequence `s` (R63, the lines nz to out). -/
def encodeOut (c : Config) (s : List Byte) : List Byte :=
  List.replicate (nzeros s) (alphaAt c 0) ++
    (digits58 (be2nat (s.drop (nzeros s)))).map (alphaAt c)

/-- The index of the first character that is not in the alphabet (R78, R122). -/
def firstOffender (c : Config) (t : List Byte) : Option Nat :=
  t.findIdx? fun ch => (alphaIndex c ch).isNone

/-- The digit values of a character sequence over the alphabet (R78). -/
def digitValues (c : Config) (t : List Byte) : List Nat := t.map fun ch => (alphaIndex c ch).getD 0

/-- `Raw(...)` of R78 without its tests: the bytes a sequence of digits stands for. -/
def rawOf (d : List Nat) : List Byte :=
  List.replicate (nzeroDigits d) 0 ++ nat2be (digits2nat (d.drop (nzeroDigits d)))

/-- `decode_raw(t)` (R78): the tests in the order written, the first that fails decides. -/
def decodeRaw (c : Config) (t : List Byte) : Except Failure (List Byte) :=
  if c.nc < t.length then .error capacityFailure
  else
    match firstOffender c t with
    | some p => .error { cause := .invalidCharacter, pos := p, char := t.getD p 0 }
    | none =>
      let raw := rawOf (digitValues c t)
      if c.nb < raw.length then .error capacityFailure else .ok raw

end Sys2Proof.Machine
end

