-- ==== Sys2Proof/Machine/Base58.lean ====
section
/-!
DEFINITION. Machine/Base58.lean: the meanings of `B58ENC` (R63) and `B58DEC` (R79).
-/

namespace Sys2Proof.Machine

/-- The encoders' rule from the source length on (R63, R109): the capacity test on the length of the
work sequence, which is the source and `extra` bytes more, then the encoding of that sequence. -/
def encodeWith (extra : Nat) (work : List Byte → List Byte) (s : State) : State :=
  if s.cfg.nb < s.blen.toNat + extra then failWith capacityFailure s
  else complete (deliverChars (encodeOut s.cfg (work (sourceBytes s))) s)

/-- The decoders' rule from the result of the tests on (R79, R111): the bytes delivered, or the
failure raised. -/
def deliverOrFail (r : Except Failure (List Byte)) (s : State) : State :=
  match r with
  | .ok out => complete (deliverBytes out s)
  | .error f => failWith f s

/-- `B58ENC` (R63). -/
def execB58enc (s : State) : Host.Outcome State Fault Refusal :=
  runCommand .b58enc (encodeWith 0 id) s

/-- `B58DEC` (R79). -/
def execB58dec (s : State) : Host.Outcome State Fault Refusal :=
  runCommand .b58dec (fun s => deliverOrFail (decodeRaw s.cfg (sourceChars s)) s) s

end Sys2Proof.Machine
end

