-- ==== Sys2Proof/Machine/Sha256.lean ====
section
/-!
DEFINITION. Machine/Sha256.lean: the hash function of 42_sha256.md (R96 to R103).

All of it is the spec's own general knowledge (93_implementation_defined.md G1). `sha256` is the one
definition a correction of the hash would replace. PRESUMED, assumption 10.
-/

namespace Sys2Proof.Machine

/-- `rotr(x, n)`, for `0 < n < 32` (R96). -/
def rotr (x : Word) (n : Nat) : Word := (x >>> n) ||| (x <<< (32 - n))

/-- `Ch(x, y, z)` (R97). -/
def shaCh (x y z : Word) : Word := (x &&& y) ^^^ (~~~x &&& z)

/-- `Maj(x, y, z)` (R97). -/
def shaMaj (x y z : Word) : Word := (x &&& y) ^^^ (x &&& z) ^^^ (y &&& z)

/-- `S0`, "big sigma 0" (R97). -/
def bigSigma0 (x : Word) : Word := rotr x 2 ^^^ rotr x 13 ^^^ rotr x 22

/-- `S1`, "big sigma 1" (R97). -/
def bigSigma1 (x : Word) : Word := rotr x 6 ^^^ rotr x 11 ^^^ rotr x 25

/-- `s0`, "small sigma 0" (R97). -/
def smallSigma0 (x : Word) : Word := rotr x 7 ^^^ rotr x 18 ^^^ (x >>> 3)

/-- `s1`, "small sigma 1" (R97). -/
def smallSigma1 (x : Word) : Word := rotr x 17 ^^^ rotr x 19 ^^^ (x >>> 10)

/-- The initial hash value `IV` (R98). -/
def shaIV : Hash :=
  { h0 := 0x6a09e667, h1 := 0xbb67ae85, h2 := 0x3c6ef372, h3 := 0xa54ff53a
    h4 := 0x510e527f, h5 := 0x9b05688c, h6 := 0x1f83d9ab, h7 := 0x5be0cd19 }

/-- The 64 round constants `K` (R99). -/
def shaK : List Word :=
  [0x428a2f98, 0x71374491, 0xb5c0fbcf, 0xe9b5dba5,
   0x3956c25b, 0x59f111f1, 0x923f82a4, 0xab1c5ed5] ++
  [0xd807aa98, 0x12835b01, 0x243185be, 0x550c7dc3,
   0x72be5d74, 0x80deb1fe, 0x9bdc06a7, 0xc19bf174] ++
  [0xe49b69c1, 0xefbe4786, 0x0fc19dc6, 0x240ca1cc,
   0x2de92c6f, 0x4a7484aa, 0x5cb0a9dc, 0x76f988da] ++
  [0x983e5152, 0xa831c66d, 0xb00327c8, 0xbf597fc7,
   0xc6e00bf3, 0xd5a79147, 0x06ca6351, 0x14292967] ++
  [0x27b70a85, 0x2e1b2138, 0x4d2c6dfc, 0x53380d13,
   0x650a7354, 0x766a0abb, 0x81c2c92e, 0x92722c85] ++
  [0xa2bfe8a1, 0xa81a664b, 0xc24b8b70, 0xc76c51a3,
   0xd192e819, 0xd6990624, 0xf40e3585, 0x106aa070] ++
  [0x19a4c116, 0x1e376c08, 0x2748774c, 0x34b0bcb5,
   0x391c0cb3, 0x4ed8aa4a, 0x5b9cca4f, 0x682e6ff3] ++
  [0x748f82ee, 0x78a5636f, 0x84c87814, 0x8cc70208,
   0x90befffa, 0xa4506ceb, 0xbef9a3f7, 0xc67178f2]

/-- The number of 64-byte blocks of a padded message of `len` bytes (R100, R104). -/
def shaBlocks (len : Nat) : Nat := (len + 8) / 64 + 1

/-- The length of a message in bits, as 8 bytes, most significant first (R100). -/
def lengthBytes (len : Nat) : List Byte :=
  (List.range 8).map fun j => BitVec.ofNat 8 (8 * len / 256 ^ (7 - j))

/-- `pad(msg)` (R100). -/
def shaPad (msg : List Byte) : List Byte :=
  msg ++ [0x80] ++ List.replicate (64 * shaBlocks msg.length - 8 - (msg.length + 1)) 0 ++
    lengthBytes msg.length

/-- Block `b` of the padded message (R100). -/
def shaBlock (msg : List Byte) (b : Nat) : List Byte := ((shaPad msg).drop (64 * b)).take 64

/-- The 16 message words of a block, each most significant byte first (R101). -/
def blockWords (blk : List Byte) : List Word :=
  (List.range 16).map fun t =>
    (blk.getD (4 * t) 0).setWidth 32 <<< 24 ||| (blk.getD (4 * t + 1) 0).setWidth 32 <<< 16 |||
      (blk.getD (4 * t + 2) 0).setWidth 32 <<< 8 ||| (blk.getD (4 * t + 3) 0).setWidth 32

/-- The message schedule grown by some words; the list holds the newest word first, so that
`Wt[t-2]`, `Wt[t-7]`, `Wt[t-15]` and `Wt[t-16]` are at positions 1, 6, 14 and 15 (R101). -/
def growSchedule : Nat → List Word → List Word
  | 0, ws => ws
  | n + 1, ws =>
    growSchedule n
      ((smallSigma1 (ws.getD 1 0) + ws.getD 6 0 + smallSigma0 (ws.getD 14 0) + ws.getD 15 0) :: ws)

/-- The message schedule `Wt[0..64)` of a block (R101). -/
def schedule (blk : List Byte) : List Word := (growSchedule 48 (blockWords blk).reverse).reverse

/-- One round, on the working variables a to h, with the round constant and the schedule word
(R101). -/
def shaRound (x : Hash) (kw : Word × Word) : Hash :=
  let t1 := x.h7 + bigSigma1 x.h4 + shaCh x.h4 x.h5 x.h6 + kw.1 + kw.2
  let t2 := bigSigma0 x.h0 + shaMaj x.h0 x.h1 x.h2
  { h0 := t1 + t2, h1 := x.h0, h2 := x.h1, h3 := x.h2
    h4 := x.h3 + t1, h5 := x.h4, h6 := x.h5, h7 := x.h6 }

/-- `compress(Hin, blk)` (R101). -/
def compress (hin : Hash) (blk : List Byte) : Hash :=
  let x := (shaK.zip (schedule blk)).foldl shaRound hin
  { h0 := hin.h0 + x.h0, h1 := hin.h1 + x.h1, h2 := hin.h2 + x.h2, h3 := hin.h3 + x.h3
    h4 := hin.h4 + x.h4, h5 := hin.h5 + x.h5, h6 := hin.h6 + x.h6, h7 := hin.h7 + x.h7 }

/-- The four bytes of a word, most significant first (R102). -/
def wordBytes (x : Word) : List Byte :=
  [x.extractLsb' 24 8, x.extractLsb' 16 8, x.extractLsb' 8 8, x.extractLsb' 0 8]

/-- `ser(Hc)`: the 32 bytes of a hash value (R102). -/
def serialize (h : Hash) : List Byte :=
  wordBytes h.h0 ++ wordBytes h.h1 ++ wordBytes h.h2 ++ wordBytes h.h3 ++
    wordBytes h.h4 ++ wordBytes h.h5 ++ wordBytes h.h6 ++ wordBytes h.h7

/-- `SHA256(msg)` (R102). -/
def sha256 (msg : List Byte) : List Byte :=
  serialize ((List.range (shaBlocks msg.length)).foldl (fun h b => compress h (shaBlock msg b)) shaIV)

/-- The one block of the padded message when the message is a 32-byte digest (R103, R106). -/
def digestBlock (dg : List Byte) : List Byte := dg ++ [0x80] ++ List.replicate 29 0 ++ [0x01, 0x00]

end Sys2Proof.Machine
end

