-- ==== Sys2Proof/Machine/Checksum.lean ====
section
/-!
DEFINITION. Machine/Checksum.lean: the checksum (R108), the tests of the checksum decoder (R111), and
the meanings of `B58CHK_ENC` (R109), `B58CHK_DEC` (R111) and `B58CHK_VALID` (R115).
-/

namespace Sys2Proof.Machine

/-- `checksum(p)`: the first four bytes of SHA-256 applied twice (R108). -/
def checksum (p : List Byte) : List Byte := (sha256 (sha256 p)).take Config.ckLen

/-- The tests of R111 on the decoded bytes, in order: the length, then the checksum; the payload if
both pass. -/
def verifyRaw (raw : List Byte) : Except Failure (List Byte) :=
  if raw.length < Config.ckLen then
    .error { cause := .insufficientLength, pos := raw.length, char := 0 }
  else
    let payload := raw.take (raw.length - Config.ckLen)
    let claimed := raw.drop (raw.length - Config.ckLen)
    if claimed = checksum payload then .ok payload
    else .error { cause := .checksumMismatch, pos := 0, char := 0 }

/-- All tests of R111 on a character sequence: the payload, or the first failure. -/
def checkDecode (c : Config) (t : List Byte) : Except Failure (List Byte) :=
  match decodeRaw c t with
  | .error f => .error f
  | .ok raw => verifyRaw raw

/-- The validator's rule from the result of the tests on (R115): nothing but the answer is
delivered. -/
def answerValid (r : Except Failure (List Byte)) (s : State) : State :=
  match r with
  | .ok _ => complete (setValid s)
  | .error f => failWith f s

/-- `B58CHK_ENC` (R109). -/
def execB58chkEnc (s : State) : Host.Outcome State Fault Refusal :=
  runCommand .b58chkEnc (encodeWith Config.ckLen fun p => p ++ checksum p) s

/-- `B58CHK_DEC` (R111). -/
def execB58chkDec (s : State) : Host.Outcome State Fault Refusal :=
  runCommand .b58chkDec (fun s => deliverOrFail (checkDecode s.cfg (sourceChars s)) s) s

/-- `B58CHK_VALID` (R115). -/
def execB58chkValid (s : State) : Host.Outcome State Fault Refusal :=
  runCommand .b58chkValid (fun s => answerValid (checkDecode s.cfg (sourceChars s)) s) s

end Sys2Proof.Machine
end

