-- ==== Sys2Proof/Machine/EncoderSteps.lean ====
section
/-!
DEFINITION. Machine/EncoderSteps.lean: the encoder phases, one sequencer step each (R69 to R75).
-/

namespace Sys2Proof.Machine

/-- `W[i]` (R27); every index a rule computes is inside `W` (R46): DEDUCED, assumption 8. -/
def readW (s : State) (i : Nat) : Byte := s.w.getD i 0

/-- `D[i]` (R28); every index a rule computes is inside `D` (R46): DEDUCED, assumption 8. -/
def readD (s : State) (i : Nat) : Digit := s.d.getD i 0

/-- Phase `ENC_INIT`: the capacity test (R69). -/
def encInitStep (s : State) : State :=
  let extra := if s.op = 3 then Config.ckLen else 0
  if s.cfg.nb < s.blen.toNat + extra then failWith capacityFailure s
  else
    { s with
      dp := { s.dp with
        n0 := BitVec.ofNat 13 s.blen.toNat
        n := BitVec.ofNat 13 (s.blen.toNat + extra)
        i := 0 }
      ph := .encCopy }

/-- Phase `ENC_COPY`: the snapshot of the input into `W` (R70). -/
def encCopyStep (s : State) : State :=
  if s.dp.i.toNat < s.dp.n0.toNat then
    { s with
      w := s.w.set s.dp.i.toNat (readBbuf s s.dp.i.toNat)
      dp := { s.dp with i := s.dp.i + 1 } }
  else if s.op = 3 then
    { s with dp := { s.dp with mb := 0, ml := s.dp.n0, ret := .csAppend }, ph := .csInit }
  else { s with dp := { s.dp with i := 0 }, ph := .encZeros }

/-- Phase `ENC_ZEROS`: count the leading zero bytes (R71). -/
def encZerosStep (s : State) : State :=
  if s.dp.i.toNat < s.dp.n.toNat ∧ readW s s.dp.i.toNat = 0 then
    { s with dp := { s.dp with i := s.dp.i + 1 } }
  else { s with dp := { s.dp with nz := s.dp.i, start := s.dp.i, dl := 0 }, ph := .encNext }

/-- Phase `ENC_NEXT`: another division pass, or the output (R72). -/
def encNextStep (s : State) : State :=
  if s.dp.start.toNat < s.dp.n.toNat then
    { s with dp := { s.dp with rem := 0, j := s.dp.start }, ph := .encDiv }
  else { s with dp := { s.dp with k := 0 }, ph := .encEmit }

/-- `ACC` of one division step: `REM * 256 + W[J]` (R73). -/
def divAcc (s : State) : Nat := s.dp.rem.toNat * 256 + (readW s s.dp.j.toNat).toNat

/-- Phase `ENC_DIV`: one byte of one division pass; at its end, record the remainder (R73). -/
def encDivStep (s : State) : State :=
  if s.dp.j.toNat < s.dp.n.toNat then
    { s with
      w := s.w.set s.dp.j.toNat (BitVec.ofNat 8 (divAcc s / 58))
      dp := { s.dp with rem := BitVec.ofNat 6 (divAcc s % 58), j := s.dp.j + 1 } }
  else
    { s with
      d := s.d.set s.dp.dl.toNat s.dp.rem
      dp := { s.dp with dl := s.dp.dl + 1 }
      ph := .encSkip }

/-- Phase `ENC_SKIP`: drop the zero bytes at the quotient's head (R74). -/
def encSkipStep (s : State) : State :=
  if s.dp.start.toNat < s.dp.n.toNat ∧ readW s s.dp.start.toNat = 0 then
    { s with dp := { s.dp with start := s.dp.start + 1 } }
  else { s with ph := .encNext }

/-- Phase `ENC_EMIT`: the zero characters, then the digits most significant first, then the length
and the completion (R75). -/
def encEmitStep (s : State) : State :=
  if s.dp.k.toNat < s.dp.nz.toNat then
    writeCbuf s.dp.k.toNat (alphaAt s.cfg 0) { s with dp := { s.dp with k := s.dp.k + 1 } }
  else if s.dp.k.toNat < s.dp.nz.toNat + s.dp.dl.toNat then
    writeCbuf s.dp.k.toNat
      (alphaAt s.cfg (readD s (s.dp.dl.toNat - 1 - (s.dp.k.toNat - s.dp.nz.toNat))).toNat)
      { s with dp := { s.dp with k := s.dp.k + 1 } }
  else complete { s with clen := BitVec.ofNat 16 (s.dp.nz.toNat + s.dp.dl.toNat) }

end Sys2Proof.Machine
end

