-- ==== Sys2Proof/Machine/DecoderSteps.lean ====
section
/-!
DEFINITION. Machine/DecoderSteps.lean: the decoder phases, one sequencer step each (R86 to R93).
-/

namespace Sys2Proof.Machine

/-- Phase `DEC_INIT`: the input capacity test (R86). -/
def decInitStep (s : State) : State :=
  if s.cfg.nc < s.clen.toNat then failWith capacityFailure s
  else { s with dp := { s.dp with m := BitVec.ofNat 13 s.clen.toNat, i := 0 }, ph := .decScan }

/-- Phase `DEC_SCAN`: look one character up, fail at the first that is absent (R87, R122). -/
def decScanStep (s : State) : State :=
  if s.dp.i.toNat < s.dp.m.toNat then
    match alphaIndex s.cfg (readCbuf s s.dp.i.toNat) with
    | none =>
      failWith
        { cause := .invalidCharacter, pos := s.dp.i.toNat, char := readCbuf s s.dp.i.toNat } s
    | some x =>
      { s with
        d := s.d.set s.dp.i.toNat (BitVec.ofNat 6 x)
        dp := { s.dp with i := s.dp.i + 1 } }
  else { s with dp := { s.dp with i := 0 }, ph := .decZeros }

/-- Phase `DEC_ZEROS`: count the leading zero characters (R88). -/
def decZerosStep (s : State) : State :=
  if s.dp.i.toNat < s.dp.m.toNat ∧ readD s s.dp.i.toNat = 0 then
    { s with dp := { s.dp with i := s.dp.i + 1 } }
  else { s with dp := { s.dp with nz := s.dp.i, wl := 0 }, ph := .decNext }

/-- Phase `DEC_NEXT`: the next digit, or the end of the accumulation (R89). -/
def decNextStep (s : State) : State :=
  if s.dp.i.toNat < s.dp.m.toNat then
    { s with dp := { s.dp with carry := readD s s.dp.i.toNat, j := 0 }, ph := .decMul }
  else { s with ph := .decFit }

/-- `ACC` of one multiply step: `W[NB-1-J] * 58 + CARRY` (R90). -/
def mulAcc (s : State) : Nat :=
  (readW s (s.cfg.nb - 1 - s.dp.j.toNat)).toNat * 58 + s.dp.carry.toNat

/-- Phase `DEC_MUL`: one byte of one multiply pass; at its end, grow the number by the carry if there
is one (R90). -/
def decMulStep (s : State) : State :=
  if s.dp.j.toNat < s.dp.wl.toNat then
    { s with
      w := s.w.set (s.cfg.nb - 1 - s.dp.j.toNat) (BitVec.ofNat 8 (mulAcc s % 256))
      dp := { s.dp with carry := BitVec.ofNat 6 (mulAcc s / 256), j := s.dp.j + 1 } }
  else if s.dp.carry = 0 then
    { s with dp := { s.dp with i := s.dp.i + 1 }, ph := .decNext }
  else if s.dp.wl.toNat = s.cfg.nb then failWith capacityFailure s
  else
    { s with
      w := s.w.set (s.cfg.nb - 1 - s.dp.wl.toNat) (s.dp.carry.setWidth 8)
      dp := { s.dp with wl := s.dp.wl + 1, i := s.dp.i + 1 }
      ph := .decNext }

/-- Phase `DEC_FIT`: the output capacity test (R91). -/
def decFitStep (s : State) : State :=
  if s.cfg.nb < s.dp.nz.toNat + s.dp.wl.toNat then failWith capacityFailure s
  else { s with dp := { s.dp with rl := s.dp.nz + s.dp.wl, j := 0 }, ph := .decPad }

/-- Phase `DEC_PAD`: the leading zero bytes, to the left of the number in `W` (R92). -/
def decPadStep (s : State) : State :=
  if s.dp.j.toNat < s.dp.nz.toNat then
    { s with
      w := s.w.set (s.cfg.nb - 1 - s.dp.wl.toNat - s.dp.j.toNat) 0
      dp := { s.dp with j := s.dp.j + 1 } }
  else if s.op = 2 then
    { s with dp := { s.dp with k := 0, outl := s.dp.rl }, ph := .decCommit }
  else { s with ph := .chkLen }

/-- Phase `DEC_COMMIT`: deliver the result, then the length and the completion (R93). -/
def decCommitStep (s : State) : State :=
  if s.dp.k.toNat < s.dp.outl.toNat then
    writeBbuf s.dp.k.toNat (readW s (s.cfg.nb - s.dp.rl.toNat + s.dp.k.toNat))
      { s with dp := { s.dp with k := s.dp.k + 1 } }
  else complete { s with blen := BitVec.ofNat 16 s.dp.outl.toNat }

end Sys2Proof.Machine
end

