-- ==== Sys2Proof/Machine/ChecksumSteps.lean ====
section
/-!
DEFINITION. Machine/ChecksumSteps.lean: the checksum unit's phases (R104 to R106) and the phases of
the checksum layer (R110, R113, R114), one sequencer step each.
-/

namespace Sys2Proof.Machine

/-- The checksum unit's message `W[MB..MB+ML)` (R53). -/
def unitMessage (s : State) : List Byte := (s.w.drop s.dp.mb.toNat).take s.dp.ml.toNat

/-- Phase `CS_INIT` (R104). -/
def csInitStep (s : State) : State :=
  { s with
    sha := { s.sha with h := shaIV, sb := 0, snb := BitVec.ofNat 6 (shaBlocks s.dp.ml.toNat) }
    ph := .csH1 }

/-- Phase `CS_H1`: the first application, one block per step (R105). -/
def csH1Step (s : State) : State :=
  if s.sha.sb.toNat < s.sha.snb.toNat then
    { s with
      sha := { s.sha with
        h := compress s.sha.h (shaBlock (unitMessage s) s.sha.sb.toNat)
        sb := s.sha.sb + 1 } }
  else { s with sha := { s.sha with dg1 := serialize s.sha.h }, ph := .csH2 }

/-- Phase `CS_H2`: the second application and the truncation (R106). -/
def csH2Step (s : State) : State :=
  let h := compress shaIV (digestBlock s.sha.dg1)
  { s with
    sha := { s.sha with h := h, ck := (serialize h).take Config.ckLen }
    ph := s.dp.ret }

/-- Phase `CS_APPEND`: `W[N0 + k] <- CK[k]` for `k` = 0 to 3, all in one step (R110). -/
def csAppendStep (s : State) : State :=
  { s with
    w := (((s.w.set s.dp.n0.toNat (s.sha.ck.getD 0 0)).set (s.dp.n0.toNat + 1)
      (s.sha.ck.getD 1 0)).set (s.dp.n0.toNat + 2) (s.sha.ck.getD 2 0)).set (s.dp.n0.toNat + 3)
      (s.sha.ck.getD 3 0)
    dp := { s.dp with i := 0 }
    ph := .encZeros }

/-- Phase `CHK_LEN`: the length test (R113, R123). -/
def chkLenStep (s : State) : State :=
  if s.dp.rl.toNat < Config.ckLen then
    failWith { cause := .insufficientLength, pos := s.dp.rl.toNat, char := 0 } s
  else
    { s with
      dp := { s.dp with
        mb := BitVec.ofNat 13 (s.cfg.nb - s.dp.rl.toNat)
        ml := s.dp.rl - 4
        ret := .chkCmp }
      ph := .csInit }

/-- `CK[k] = W[NB-4+k]` for all `k` in 0 to 3 (R114). -/
def checksumAgrees (s : State) : Bool :=
  (List.range Config.ckLen).all fun k =>
    s.sha.ck.getD k 0 == readW s (s.cfg.nb - Config.ckLen + k)

/-- Phase `CHK_CMP`: the checksum test (R114, R124). -/
def chkCmpStep (s : State) : State :=
  if checksumAgrees s then
    if s.op = 4 then
      { s with dp := { s.dp with k := 0, outl := s.dp.rl - 4 }, ph := .decCommit }
    else complete (setValid s)
  else failWith { cause := .checksumMismatch, pos := 0, char := 0 } s

end Sys2Proof.Machine
end

