-- ==== Sys2Proof/Machine/Sequencer.lean ====
section
/-!
DEFINITION. Machine/Sequencer.lean: the step of the sequencer, one agent of the block (R24, R62).
-/

namespace Sys2Proof.Machine

/-- One sequencer step: the step rule of the current phase (R62). In `IDLE` no step is enabled. -/
def seqStep (s : State) : State :=
  match s.ph with
  | .idle => s
  | .encInit => encInitStep s
  | .encCopy => encCopyStep s
  | .encZeros => encZerosStep s
  | .encNext => encNextStep s
  | .encDiv => encDivStep s
  | .encSkip => encSkipStep s
  | .encEmit => encEmitStep s
  | .decInit => decInitStep s
  | .decScan => decScanStep s
  | .decZeros => decZerosStep s
  | .decNext => decNextStep s
  | .decMul => decMulStep s
  | .decFit => decFitStep s
  | .decPad => decPadStep s
  | .decCommit => decCommitStep s
  | .csInit => csInitStep s
  | .csH1 => csH1Step s
  | .csH2 => csH2Step s
  | .csAppend => csAppendStep s
  | .chkLen => chkLenStep s
  | .chkCmp => chkCmpStep s

/-- `n` sequencer steps, with no host access between them. -/
def seqIter : Nat → State → State
  | 0, s => s
  | n + 1, s => seqIter n (seqStep s)

end Sys2Proof.Machine
end

