-- ==== Sys2Proof/Machine/Dispatch.lean ====
section
/-!
DEFINITION. Machine/Dispatch.lean: one arm per command, each a direct call of its meaning.
-/

namespace Sys2Proof.Machine

def exec (i : Instr) (s : State) : Host.Outcome State Fault Refusal :=
  match i with
  | .b58enc => Sys2Proof.Machine.execB58enc s
  | .b58dec => Sys2Proof.Machine.execB58dec s
  | .b58chkEnc => Sys2Proof.Machine.execB58chkEnc s
  | .b58chkDec => Sys2Proof.Machine.execB58chkDec s
  | .b58chkValid => Sys2Proof.Machine.execB58chkValid s

end Sys2Proof.Machine
end

