-- ==== Sys2Proof/Machine/Script.lean ====
section
/-!
DEFINITION. Machine/Script.lean: what one line of the schedule does (R47, R60, R135), and the
expansions of the pseudo-lines `LOADB` and `LOADC` (R60).
-/

namespace Sys2Proof.Machine

/-- The index of `STATUS` (R37). -/
def statusIndex : PortIndex := 1

/-- One turn of `WAIT`: an `RD STATUS`; if the word read has `DONE` = 0 the wait goes on, and the
sequencer, whose step is always enabled while a command runs, makes a step (R47, R60).
DESIGN CHOICE, assumption 5. -/
def waitLine (s : State) : State :=
  if s.status.done then hostRead statusIndex s
  else seqStep { hostRead statusIndex s with script := .wait :: s.script }

/-- `WR CMD, word` at operation level: ignored while a command runs (R48), the illegal-command step
for a word that is no command (R59), else the whole command. -/
def commandLine (word : Word) (s : State) : Host.Outcome State Fault Refusal :=
  if s.status.busy then .next s
  else
    match decodeCommand (commandOfPortWord word) with
    | .ok i => exec i s
    | .error _ => .next (illegalCommand s)

/-- One line of the schedule, already taken from its head. `RUN word` is `WR CMD, word`, then `WAIT`
(R60). -/
def scriptLine (l : ScriptLine) (s : State) : Host.Outcome State Fault Refusal :=
  match l with
  | .access x => .next (hostAccess x s)
  | .sequencer => .next (seqStep s)
  | .wait => .next (waitLine s)
  | .run word => commandLine word { s with script := .wait :: s.script }
  | .rst lost => .next (lostAccess lost (resetBlock s))

/-- The next event of the block: the schedule's next line; with the schedule at its end, the
sequencer's step, which is enabled for as long as a command runs (R47). DESIGN CHOICE,
assumption 5. -/
def nextEvent (s : State) : Host.Outcome State Fault Refusal :=
  match s.script with
  | [] => .next (seqStep s)
  | l :: rest => scriptLine l { s with script := rest }

/-- The block made ready to take a command word from `RUN`: no command runs. An idle block is not
changed. DESIGN CHOICE, assumption 6. -/
def makeIdle (s : State) : State :=
  { s with status := { s.status with busy := false }, ph := .idle }

/-- The state whose next event is `RUN` of the port word that holds the low `nbits` bits of `w`. -/
def placeRun (nbits w : Nat) (s : State) : State :=
  { makeIdle s with script := .run (portWordOfBits nbits w) :: s.script }

/-- The writes `WR base+0, v0`, `WR base+1, v1`, ... of the load pseudo-lines (R60). -/
def loadCells (base : Nat) (vs : List Byte) : List ScriptLine :=
  match vs with
  | [] => []
  | v :: rest =>
    .access (.write (BitVec.ofNat 14 base) (v.setWidth 32)) :: loadCells (base + 1) rest

/-- `LOADB b0 ... b(n-1)`: the cells of `BBUF`, then `BLEN` (R60). -/
def loadB (bs : List Byte) : List ScriptLine :=
  loadCells 0x1000 bs ++ [.access (.write 3 (BitVec.ofNat 32 bs.length))]

/-- `LOADC "c0 ... c(n-1)"`: the cells of `CBUF`, then `CLEN` (R60). -/
def loadC (cs : List Byte) : List ScriptLine :=
  loadCells 0x2000 cs ++ [.access (.write 4 (BitVec.ofNat 32 cs.length))]

end Sys2Proof.Machine
end

