-- ==== Sys2Proof/Machine/Step.lean ====
section
/-!
DEFINITION. Machine/Step.lean: one step of the machine, and the placing of an instruction.
-/

namespace Sys2Proof.Machine

/-- One atomic event of one of the two agents (R47), as the schedule in the state says. -/
def step (s : State) : Host.Outcome State Fault Refusal := nextEvent s

/-- `s` with the instruction placed where the next step takes it: the block idle, and `RUN` of the
word at the head of the schedule. The block fetches nothing (R52): a command is a host's write.
DESIGN CHOICE, assumption 6. -/
def State.withFetchWord (s : State) (nbits w : Nat) : State := placeRun nbits w s

end Sys2Proof.Machine
end

