-- ==== Sys2Proof/Safety.lean ====
section
/-!
DEFINITION. Safety.lean: what counts as a safe outcome and a sound state, and the relations between
two states in whose terms the statements are written.
-/

namespace Sys2Proof.Machine

/-- An outcome in which the machine goes on. The spec gives the block no stuck state
(93_implementation_defined.md, the end of part 1). -/
def Safe (o : Host.Outcome State Fault Refusal) : Prop := ∃ t, o = .next t

/-- No command runs (R24: `PH = IDLE` if and only if `STATUS.BUSY = 0`). -/
abbrev Idle (s : State) : Prop := s.status.busy = false

/-- Which command may be running in a phase, and where the checksum unit continues (R62). -/
def phaseFits (ph : Phase) (op : Code) (ret : Phase) : Prop :=
  match ph with
  | .idle => True
  | .encInit | .encCopy | .encZeros | .encNext | .encDiv | .encSkip | .encEmit => op = 1 ∨ op = 3
  | .decInit | .decScan | .decZeros | .decNext | .decMul | .decFit | .decPad =>
    op = 2 ∨ op = 4 ∨ op = 5
  | .decCommit => op = 2 ∨ op = 4
  | .csInit | .csH1 | .csH2 => (ret = .csAppend ∧ op = 3) ∨ (ret = .chkCmp ∧ (op = 4 ∨ op = 5))
  | .csAppend => op = 3
  | .chkLen | .chkCmp => op = 4 ∨ op = 5

/-- A code the block can report: 1 is reserved for software (R121), 7 is unused (R120). -/
def reportable (c : Code) : Prop := c ≠ 1 ∧ c ≠ 7

/-- A sound state of the block: what every step keeps. -/
structure Inv (s : State) : Prop where
  /-- The parameters are in their ranges (R5, R6, R8). -/
  config : s.cfg.wf
  /-- `BBUF` is in canonical form and has no cell at or above `NB` (R25). -/
  bbufCells : Memory.wf s.cfg.nb s.bbuf
  /-- `CBUF` is in canonical form and has no cell at or above `NC` (R26). -/
  cbufCells : Memory.wf s.cfg.nc s.cbuf
  /-- `W` has `NB` cells (R27). -/
  workCells : s.w.length = s.cfg.nb
  /-- `D` has `NC` cells (R28). -/
  digitCells : s.d.length = s.cfg.nc
  /-- Every cell of `D` holds a digit 0 to 57 (R28). -/
  digitRange : ∀ x ∈ s.d, x.toNat ≤ 57
  /-- `REM` is 0 to 57 (R23). -/
  remRange : s.dp.rem.toNat ≤ 57
  /-- `CARRY` is 0 to 57 (R23). -/
  carryRange : s.dp.carry.toNat ≤ 57
  /-- `DG1` is 32 bytes (R29). -/
  digestCells : s.sha.dg1.length = 32
  /-- `CK` is 4 bytes (R29). -/
  checksumCells : s.sha.ck.length = 4
  /-- `PH = IDLE` if and only if `STATUS.BUSY = 0` (R24). -/
  idleIff : s.ph = .idle ↔ s.status.busy = false
  /-- While a command runs, `DONE`, `VALID`, `ERR` and `ERRINFO` are 0 (R16, R49). -/
  runningClear : s.status.busy = true → s.status = statusRunning ∧ s.errinfo = errInfoClear
  /-- The phase belongs to the running command (R62). -/
  phaseOp : phaseFits s.ph s.op s.dp.ret
  /-- `ERR` and `CAUSE` never hold code 1 or 7 (R120, R121). -/
  codes : reportable s.status.err ∧ reportable s.errinfo.cause
  /-- `VALID` = 1 only with no cause recorded (R115). -/
  validClear : s.status.valid = true → s.status.err = 0 ∧ s.errinfo = errInfoClear

/-- The phases that may follow a phase in the graph of R62, for the running command `op` and the
link register `ret`; a completion goes to `IDLE`. -/
def phaseSuccessors (ph : Phase) (op : Code) (ret : Phase) : List Phase :=
  match ph with
  | .idle => [.idle]
  | .encInit => [.encCopy, .idle]
  | .encCopy => if op = 3 then [.encCopy, .csInit] else [.encCopy, .encZeros]
  | .encZeros => [.encZeros, .encNext]
  | .encNext => [.encDiv, .encEmit]
  | .encDiv => [.encDiv, .encSkip]
  | .encSkip => [.encSkip, .encNext]
  | .encEmit => [.encEmit, .idle]
  | .decInit => [.decScan, .idle]
  | .decScan => [.decScan, .decZeros, .idle]
  | .decZeros => [.decZeros, .decNext]
  | .decNext => [.decMul, .decFit]
  | .decMul => [.decMul, .decNext, .idle]
  | .decFit => [.decPad, .idle]
  | .decPad => if op = 2 then [.decPad, .decCommit] else [.decPad, .chkLen]
  | .decCommit => [.decCommit, .idle]
  | .csInit => [.csH1]
  | .csH1 => [.csH1, .csH2]
  | .csH2 => [ret]
  | .csAppend => [.encZeros]
  | .chkLen => [.csInit, .idle]
  | .chkCmp => if op = 4 then [.decCommit, .idle] else [.idle]

/-- The parameters, the schedule, the host's log and the two counters are the same. -/
def SameOutside (s t : State) : Prop :=
  t.cfg = s.cfg ∧ t.script = s.script ∧ t.readLog = s.readLog ∧ t.epoch = s.epoch ∧
    t.draws = s.draws

/-- The hidden registers and buffers are the same, but for `PH` and `OP` (R23, R27, R28, R29). -/
def SameScratch (s t : State) : Prop :=
  t.dp = s.dp ∧ t.sha = s.sha ∧ t.w = s.w ∧ t.d = s.d

/-- `BLEN` and every cell of `BBUF` are the same. -/
def SameBytes (s t : State) : Prop := t.blen = s.blen ∧ ∀ i, readBbuf t i = readBbuf s i

/-- `CLEN` and every cell of `CBUF` are the same. -/
def SameChars (s t : State) : Prop := t.clen = s.clen ∧ ∀ i, readCbuf t i = readCbuf s i

/-- `CBUF[0..len(out))` holds `out`, `CLEN` its length, and the cells at and above keep their
contents (R56, R139). -/
def CharsDelivered (out : List Byte) (s t : State) : Prop :=
  t.clen.toNat = out.length ∧ (∀ k, k < out.length → readCbuf t k = out.getD k 0) ∧
    ∀ k, out.length ≤ k → readCbuf t k = readCbuf s k

/-- `BBUF[0..len(out))` holds `out`, `BLEN` its length, and the cells at and above keep their
contents (R56, R139). -/
def BytesDelivered (out : List Byte) (s t : State) : Prop :=
  t.blen.toNat = out.length ∧ (∀ k, k < out.length → readBbuf t k = out.getD k 0) ∧
    ∀ k, out.length ≤ k → readBbuf t k = readBbuf s k

/-- The command ended: the sequencer is in `IDLE` and `OP` holds its opcode (R57, R128, R129). -/
def CommandEnded (i : Instr) (t : State) : Prop := t.ph = .idle ∧ t.op = opcodeOf i

/-- `STATUS` and `ERRINFO` after a success: `DONE` and, for the validator's answer, `VALID` (R129). -/
def ReportsSuccess (valid : Bool) (t : State) : Prop :=
  t.status = { busy := false, done := true, valid := valid, err := 0 } ∧
    t.errinfo = { cause := 0, char := 0, pos := 0 }

/-- `STATUS` and `ERRINFO` after a failure that is raised (R128). -/
def ReportsFailure (f : Failure) (t : State) : Prop :=
  t.status = { busy := false, done := true, valid := false, err := causeCode f.cause } ∧
    t.errinfo = { cause := causeCode f.cause, char := f.char, pos := BitVec.ofNat 16 f.pos }

/-- `STATUS` and `ERRINFO` after a failure the validator records without raising it (R115, R128). -/
def RecordsFailure (f : Failure) (t : State) : Prop :=
  t.status = { busy := false, done := true, valid := false, err := 0 } ∧
    t.errinfo = { cause := causeCode f.cause, char := f.char, pos := BitVec.ofNat 16 f.pos }

/-- A block whose hidden scratch state is put back to that of another: what is left is what a host
can observe, with `PH`, `OP` and the model's own fields (R30). -/
def withScratchOf (s u : State) : State := { u with dp := s.dp, sha := s.sha, w := s.w, d := s.d }

/-- The states the machine passes through: what `n` steps of the machine lead to. -/
def runSteps (n : Nat) (s : State) : Host.Outcome State Fault Refusal :=
  match n with
  | 0 => .next s
  | n + 1 =>
    match step s with
    | .next t => runSteps n t
    | .fault r => .fault r
    | .refused r => .refused r

/-- A line that lets the sequencer move or has the host write: what may happen while a command runs
besides reads. -/
def isWriteOrTurn (l : ScriptLine) : Bool :=
  match l with
  | .sequencer => true
  | .access (.write _ _) => true
  | .access (.read _) => false
  | .wait => false
  | .run _ => false
  | .rst _ => false

/-- The effect of such a line on a state. -/
def applyLine (s : State) (l : ScriptLine) : State :=
  match l with
  | .sequencer => seqStep s
  | .access x => hostAccess x s
  | .wait => s
  | .run _ => s
  | .rst _ => s

end Sys2Proof.Machine
end

