-- ==== Sys2Proof/Certificates/Slice0/Obligations.lean ====
section
/-!
DEFINITION. Certificates/Slice0/Obligations.lean: the statements about the block, from the numbered
rules of the spec. Each docstring names the rule or the section it formalises.
-/

open Sys2Proof Sys2Proof.Machine

/-! ### Command words -/

/-- The five command words, written out bit by bit, decode to the five commands (R55). -/
def Obligations.FiveCommandWordsDecode : Prop :=
  decode [0b00000001] = .ok (.b58enc, []) ∧
  decode [0b00000010] = .ok (.b58dec, []) ∧
  decode [0b00000011] = .ok (.b58chkEnc, []) ∧
  decode [0b00000100] = .ok (.b58chkDec, []) ∧
  decode [0b00000101] = .ok (.b58chkValid, []) ∧
  decodeTableWord 8 0x01 = some .b58enc ∧ decodeTableWord 8 0x05 = some .b58chkValid

/-- R55: the opcode map. The whole 8-bit word is matched; each of the five words is its command,
with its opcode, its mnemonic and its function name, and no other word is a command. -/
def Obligations.OpcodeMapMatchesTheWholeWord : Prop :=
  ∀ b : Byte,
    (b = 0x01 → decodeCommand b = .ok .b58enc ∧ opcodeOf .b58enc = 1 ∧
      mnemonicOf .b58enc = "B58ENC" ∧ functionNameOf .b58enc = "b58encode") ∧
    (b = 0x02 → decodeCommand b = .ok .b58dec ∧ opcodeOf .b58dec = 2 ∧
      mnemonicOf .b58dec = "B58DEC" ∧ functionNameOf .b58dec = "b58decode") ∧
    (b = 0x03 → decodeCommand b = .ok .b58chkEnc ∧ opcodeOf .b58chkEnc = 3 ∧
      mnemonicOf .b58chkEnc = "B58CHK_ENC" ∧ functionNameOf .b58chkEnc = "b58check_encode") ∧
    (b = 0x04 → decodeCommand b = .ok .b58chkDec ∧ opcodeOf .b58chkDec = 4 ∧
      mnemonicOf .b58chkDec = "B58CHK_DEC" ∧ functionNameOf .b58chkDec = "b58check_decode") ∧
    (b = 0x05 → decodeCommand b = .ok .b58chkValid ∧ opcodeOf .b58chkValid = 5 ∧
      mnemonicOf .b58chkValid = "B58CHK_VALID" ∧
      functionNameOf .b58chkValid = "b58check_address_is_valid") ∧
    (¬ (1 ≤ b.toNat ∧ b.toNat ≤ 5) → ∀ i, decodeCommand b ≠ .ok i)

/-- Decoding an encoded command gives it back, whatever follows it; and a byte sequence that decodes
to a command is that command's encoding and the rest: each command word has one meaning (R54, R55). -/
def Obligations.DecodeAndEncodeAgree : Prop :=
  (∀ (i : Instr) (rest : List Byte), i.wf = true → decode (encode i ++ rest) = .ok (i, rest)) ∧
  (∀ (bytes rest : List Byte) (i : Instr), decode bytes = .ok (i, rest) →
    bytes = encode i ++ rest)

/-! ### The host port -/

/-- R57: a host write to `CMD` of a word whose bits 7:0 are one of 0x01 to 0x05, while no command
runs, accepts the command, and changes nothing else. -/
def Obligations.AcceptanceStartsTheCommand : Prop :=
  ∀ (v : Word) (s : State), Idle s →
    1 ≤ (v.extractLsb' 0 8).toNat → (v.extractLsb' 0 8).toNat ≤ 5 →
    hostWrite 0 v s =
      { s with
        status := { busy := true, done := false, valid := false, err := 0 }
        errinfo := { cause := 0, char := 0, pos := 0 }
        op := v.extractLsb' 0 3
        ph := if v.extractLsb' 0 8 = 0x01 ∨ v.extractLsb' 0 8 = 0x03 then .encInit else .decInit }

/-- R59: a host write to `CMD` of any other word, while no command runs, is reported at once and
changes nothing else. -/
def Obligations.IllegalCommandWordIsReported : Prop :=
  ∀ (v : Word) (s : State), Idle s →
    ¬ (1 ≤ (v.extractLsb' 0 8).toNat ∧ (v.extractLsb' 0 8).toNat ≤ 5) →
    hostWrite 0 v s =
      { s with
        status := { busy := false, done := true, valid := false, err := 6 }
        errinfo := { cause := 6, char := 0, pos := 0 } } ∧
    statusWord (hostWrite 0 v s).status = 0x62 ∧ errInfoWord (hostWrite 0 v s).errinfo = 0x06000000

/-- The register words (10_state.md section 2): the fields at their bit positions, the reserved bits
0; `STATUS`, `ERRINFO` and `CAP` are read exactly whether or not a command runs; `done` is the bit
`DONE`. -/
def Obligations.RegisterWordLayouts : Prop :=
  ∀ s : State, s.cfg.wf →
    ((hostReadValue s 1).getLsbD 0 = s.status.busy ∧ (hostReadValue s 1).getLsbD 1 = s.status.done ∧
      (hostReadValue s 1).getLsbD 2 = s.status.valid ∧ (hostReadValue s 1).getLsbD 3 = false ∧
      (hostReadValue s 1).extractLsb' 4 3 = s.status.err ∧
      (hostReadValue s 1).extractLsb' 7 25 = 0) ∧
    ((hostReadValue s 2).extractLsb' 0 16 = s.errinfo.pos ∧
      (hostReadValue s 2).extractLsb' 16 8 = s.errinfo.char ∧
      (hostReadValue s 2).extractLsb' 24 3 = s.errinfo.cause ∧
      (hostReadValue s 2).extractLsb' 27 5 = 0) ∧
    (((hostReadValue s 5).extractLsb' 0 16).toNat = s.cfg.nb ∧
      ((hostReadValue s 5).extractLsb' 16 16).toNat = s.cfg.nc) ∧
    doneOutput s = (hostReadValue s 1).getLsbD 1

/-- R38: the two host primitives while no command runs, at every index of the map of R37. -/
def Obligations.IdlePortAccesses : Prop :=
  ∀ (a : PortIndex) (s : State), s.cfg.wf → Idle s →
    ((a.toNat = 0 → hostReadValue s a = 0) ∧
      (a.toNat = 1 → hostReadValue s a = statusWord s.status) ∧
      (a.toNat = 2 → hostReadValue s a = errInfoWord s.errinfo) ∧
      (a.toNat = 3 → hostReadValue s a = s.blen.setWidth 32) ∧
      (a.toNat = 4 → hostReadValue s a = s.clen.setWidth 32) ∧
      (a.toNat = 5 → hostReadValue s a = capWord s.cfg) ∧
      (∀ i, i < s.cfg.nb → a.toNat = 0x1000 + i →
        hostReadValue s a = (readBbuf s i).setWidth 32) ∧
      (∀ i, i < s.cfg.nc → a.toNat = 0x2000 + i →
        hostReadValue s a = (readCbuf s i).setWidth 32) ∧
      ((6 ≤ a.toNat ∧ a.toNat < 0x1000) ∨ (0x1000 + s.cfg.nb ≤ a.toNat ∧ a.toNat < 0x2000) ∨
        0x2000 + s.cfg.nc ≤ a.toNat → hostReadValue s a = 0) ∧
      hostRead a s = { s with readLog := hostReadValue s a :: s.readLog }) ∧
    ∀ v : Word,
      (a.toNat = 0 → hostWrite a v s = writeCommand v s) ∧
      (a.toNat = 3 → hostWrite a v s = { s with blen := v.extractLsb' 0 16 }) ∧
      (a.toNat = 4 → hostWrite a v s = { s with clen := v.extractLsb' 0 16 }) ∧
      (∀ i, i < s.cfg.nb → a.toNat = 0x1000 + i →
        hostWrite a v s = { s with bbuf := (hostWrite a v s).bbuf } ∧
        readBbuf (hostWrite a v s) i = v.extractLsb' 0 8 ∧
        ∀ j, j ≠ i → readBbuf (hostWrite a v s) j = readBbuf s j) ∧
      (∀ i, i < s.cfg.nc → a.toNat = 0x2000 + i →
        hostWrite a v s = { s with cbuf := (hostWrite a v s).cbuf } ∧
        readCbuf (hostWrite a v s) i = v.extractLsb' 0 8 ∧
        ∀ j, j ≠ i → readCbuf (hostWrite a v s) j = readCbuf s j) ∧
      (a.toNat = 1 ∨ a.toNat = 2 ∨ a.toNat = 5 ∨ (6 ≤ a.toNat ∧ a.toNat < 0x1000) ∨
        (0x1000 + s.cfg.nb ≤ a.toNat ∧ a.toNat < 0x2000) ∨ 0x2000 + s.cfg.nc ≤ a.toNat →
        hostWrite a v s = s)

/-- R48: while a command runs every host write, to any index, changes nothing; a second command can
be neither queued nor started. -/
def Obligations.BusyWritesAreIgnored : Prop :=
  ∀ s : State, s.status.busy = true →
    (∀ (a : PortIndex) (v : Word), hostWrite a v s = s) ∧ ∀ i : Instr, exec i s = .next s

/-- Host reads while a command runs (20_memory.md section 6). `STATUS` reads `BUSY` alone and
`ERRINFO` reads 0; `CAP`, `CMD` and the reserved indices read as on an idle block; the data registers
and cells read an unspecified word; and no read changes the block. That the unspecified word is the
free value `Config.freeReadWord` of the counter `draws`, which the read advances, is the model's
choice: DESIGN CHOICE, assumption 4. -/
def Obligations.BusyReads : Prop :=
  ∀ (a : PortIndex) (s : State), Inv s → s.status.busy = true →
    (a.toNat = 0 → hostReadValue s a = 0) ∧
    (a.toNat = 1 → hostReadValue s a = 0x00000001) ∧
    (a.toNat = 2 → hostReadValue s a = 0) ∧
    (a.toNat = 5 → hostReadValue s a = capWord s.cfg) ∧
    ((6 ≤ a.toNat ∧ a.toNat < 0x1000) ∨ (0x1000 + s.cfg.nb ≤ a.toNat ∧ a.toNat < 0x2000) ∨
      0x2000 + s.cfg.nc ≤ a.toNat → hostReadValue s a = 0) ∧
    (a.toNat = 3 ∨ a.toNat = 4 ∨ (0x1000 ≤ a.toNat ∧ a.toNat < 0x1000 + s.cfg.nb) ∨
      (0x2000 ≤ a.toNat ∧ a.toNat < 0x2000 + s.cfg.nc) →
      hostReadValue s a = Config.freeReadWord s.draws ∧ (hostRead a s).draws = s.draws + 1) ∧
    hostRead a s = { s with readLog := hostReadValue s a :: s.readLog, draws := (hostRead a s).draws }

/-- A host write to an index other than `CMD` may be made twice with the effect of once
(20_memory.md section 4). -/
def Obligations.DataWritesAreIdempotent : Prop :=
  ∀ (a : PortIndex) (v : Word) (s : State), a ≠ 0 →
    hostWrite a v (hostWrite a v s) = hostWrite a v s

/-! ### The step -/

/-- Where the schedule's next line is `RUN` of a word that decodes to a command and no command runs,
the step is `exec` of that command, on the state whose schedule goes on with the `WAIT` of `RUN`
(R60, R52). The schedule is the model's own: DESIGN CHOICE, assumption 5. -/
def Obligations.StepRunsTheDecodedCommand : Prop :=
  ∀ (s : State) (v : Word) (rest : List ScriptLine) (i : Instr),
    s.script = .run v :: rest → Idle s → decodeCommand (commandOfPortWord v) = .ok i →
    step s = exec i { s with script := .wait :: rest }

/-- The step at every other line of the schedule and at its end (R47, R60, R135): one atomic event of
one agent, or a reset period. The schedule, and one sequencer step for each turn of `WAIT`, are the
model's own: DESIGN CHOICE, assumption 5; what a reset period keeps: DESIGN CHOICE, assumption 11. -/
def Obligations.StepTakesTheOtherLines : Prop :=
  ∀ (s : State) (rest : List ScriptLine),
    (s.script = [] → step s = .next (seqStep s)) ∧
    (s.script = .sequencer :: rest → step s = .next (seqStep { s with script := rest })) ∧
    (∀ x, s.script = .access x :: rest → step s = .next (hostAccess x { s with script := rest })) ∧
    (s.script = .wait :: rest → s.status.done = true →
      step s = .next (hostRead 1 { s with script := rest })) ∧
    (s.script = .wait :: rest → s.status.done = false → step s = .next (seqStep (hostRead 1 s))) ∧
    (∀ v, s.script = .run v :: rest → s.status.busy = true →
      step s = .next { s with script := .wait :: rest }) ∧
    (∀ v e, s.script = .run v :: rest → Idle s → decodeCommand (commandOfPortWord v) = .error e →
      step s = .next (illegalCommand { s with script := .wait :: rest })) ∧
    (∀ lost, s.script = .rst lost :: rest →
      step s = .next (lostAccess lost (resetBlock { s with script := rest })))

/-- A command word placed by `withFetchWord` is run by the very next step, from every state. How a
command is placed is the model's choice: DESIGN CHOICE, assumption 6. -/
def Obligations.PlacedWordRunsNext : Prop :=
  ∀ (s : State) (i : Instr),
    step (s.withFetchWord 8 (opcodeOf i).toNat) =
      exec i { makeIdle s with script := .wait :: s.script }

/-- No step stops the machine: every state has a next state
(93_implementation_defined.md, the end of part 1). -/
def Obligations.NoStepStops : Prop := ∀ s : State, Safe (step s)

/-! ### The five commands -/

/-- R63: `B58ENC`. -/
def Obligations.B58encResult : Prop :=
  ∀ s : State, s.cfg.wf → Idle s →
    (s.blen.toNat ≤ s.cfg.nb →
      ∃ t, exec .b58enc s = .next t ∧ ReportsSuccess false t ∧
        CharsDelivered
          (List.replicate (nzeros (sourceBytes s)) (alphaAt s.cfg 0) ++
            (digits58 (be2nat ((sourceBytes s).drop (nzeros (sourceBytes s))))).map (alphaAt s.cfg))
          s t ∧
        SameBytes s t ∧ SameOutside s t ∧ CommandEnded .b58enc t) ∧
    (s.cfg.nb < s.blen.toNat →
      ∃ t, exec .b58enc s = .next t ∧
        ReportsFailure { cause := .capacityExceeded, pos := 0, char := 0 } t ∧
        t.clen = 0 ∧ (∀ k, readCbuf t k = readCbuf s k) ∧
        SameBytes s t ∧ SameOutside s t ∧ CommandEnded .b58enc t)

/-- R79: `B58DEC`. -/
def Obligations.B58decResult : Prop :=
  ∀ s : State, s.cfg.wf → Idle s →
    (∀ raw, decodeRaw s.cfg (sourceChars s) = .ok raw →
      ∃ t, exec .b58dec s = .next t ∧ ReportsSuccess false t ∧ BytesDelivered raw s t ∧
        SameChars s t ∧ SameOutside s t ∧ CommandEnded .b58dec t) ∧
    (∀ f, decodeRaw s.cfg (sourceChars s) = .error f →
      (f.cause = .invalidCharacter ∨ f.cause = .capacityExceeded) ∧
      ∃ t, exec .b58dec s = .next t ∧ ReportsFailure f t ∧
        t.blen = 0 ∧ (∀ k, readBbuf t k = readBbuf s k) ∧
        SameChars s t ∧ SameOutside s t ∧ CommandEnded .b58dec t)

/-- R109: `B58CHK_ENC`. -/
def Obligations.B58chkEncResult : Prop :=
  ∀ s : State, s.cfg.wf → Idle s →
    (s.blen.toNat + 4 ≤ s.cfg.nb →
      ∃ t, exec .b58chkEnc s = .next t ∧ ReportsSuccess false t ∧
        CharsDelivered (encodeOut s.cfg (sourceBytes s ++ checksum (sourceBytes s))) s t ∧
        SameBytes s t ∧ SameOutside s t ∧ CommandEnded .b58chkEnc t) ∧
    (s.cfg.nb < s.blen.toNat + 4 →
      ∃ t, exec .b58chkEnc s = .next t ∧
        ReportsFailure { cause := .capacityExceeded, pos := 0, char := 0 } t ∧
        t.clen = 0 ∧ (∀ k, readCbuf t k = readCbuf s k) ∧
        SameBytes s t ∧ SameOutside s t ∧ CommandEnded .b58chkEnc t)

/-- R111: `B58CHK_DEC`. -/
def Obligations.B58chkDecResult : Prop :=
  ∀ s : State, s.cfg.wf → Idle s →
    (∀ f, decodeRaw s.cfg (sourceChars s) = .error f →
      ∃ t, exec .b58chkDec s = .next t ∧ ReportsFailure f t ∧
        t.blen = 0 ∧ (∀ k, readBbuf t k = readBbuf s k) ∧
        SameChars s t ∧ SameOutside s t ∧ CommandEnded .b58chkDec t) ∧
    (∀ raw, decodeRaw s.cfg (sourceChars s) = .ok raw →
      (raw.length < 4 →
        ∃ t, exec .b58chkDec s = .next t ∧
          ReportsFailure { cause := .insufficientLength, pos := raw.length, char := 0 } t ∧
          t.blen = 0 ∧ (∀ k, readBbuf t k = readBbuf s k) ∧
          SameChars s t ∧ SameOutside s t ∧ CommandEnded .b58chkDec t) ∧
      (4 ≤ raw.length → raw.drop (raw.length - 4) ≠ checksum (raw.take (raw.length - 4)) →
        ∃ t, exec .b58chkDec s = .next t ∧
          ReportsFailure { cause := .checksumMismatch, pos := 0, char := 0 } t ∧
          t.blen = 0 ∧ (∀ k, readBbuf t k = readBbuf s k) ∧
          SameChars s t ∧ SameOutside s t ∧ CommandEnded .b58chkDec t) ∧
      (4 ≤ raw.length → raw.drop (raw.length - 4) = checksum (raw.take (raw.length - 4)) →
        ∃ t, exec .b58chkDec s = .next t ∧ ReportsSuccess false t ∧
          BytesDelivered (raw.take (raw.length - 4)) s t ∧
          SameChars s t ∧ SameOutside s t ∧ CommandEnded .b58chkDec t))

/-- R115: `B58CHK_VALID`. -/
def Obligations.B58chkValidResult : Prop :=
  ∀ s : State, Idle s →
    (∀ f, decodeRaw s.cfg (sourceChars s) = .error f →
      ∃ t, exec .b58chkValid s = .next t ∧ RecordsFailure f t ∧
        SameBytes s t ∧ SameChars s t ∧ SameOutside s t ∧ CommandEnded .b58chkValid t) ∧
    (∀ raw, decodeRaw s.cfg (sourceChars s) = .ok raw →
      (raw.length < 4 →
        ∃ t, exec .b58chkValid s = .next t ∧
          RecordsFailure { cause := .insufficientLength, pos := raw.length, char := 0 } t ∧
          SameBytes s t ∧ SameChars s t ∧ SameOutside s t ∧ CommandEnded .b58chkValid t) ∧
      (4 ≤ raw.length → raw.drop (raw.length - 4) ≠ checksum (raw.take (raw.length - 4)) →
        ∃ t, exec .b58chkValid s = .next t ∧
          RecordsFailure { cause := .checksumMismatch, pos := 0, char := 0 } t ∧
          SameBytes s t ∧ SameChars s t ∧ SameOutside s t ∧ CommandEnded .b58chkValid t) ∧
      (4 ≤ raw.length → raw.drop (raw.length - 4) = checksum (raw.take (raw.length - 4)) →
        ∃ t, exec .b58chkValid s = .next t ∧ ReportsSuccess true t ∧
          SameBytes s t ∧ SameChars s t ∧ SameOutside s t ∧ CommandEnded .b58chkValid t))

/-- What every command leaves alone at operation level, whatever it answers: the parameters, the
schedule, the host's log and the counters; and, by the model's own choice (assumption 1; the spec
leaves the hidden state after a command open, R30), the hidden scratch state. -/
def Obligations.CommandsLeaveTheRest : Prop :=
  ∀ (i : Instr) (s t : State), exec i s = .next t → SameOutside s t ∧ SameScratch s t

/-! ### The codec -/

/-- R78: `decode_raw`. The tests in the order written; the first that fails decides. -/
def Obligations.DecodeRawTestsInOrder : Prop :=
  ∀ (c : Config) (t : List Byte),
    (c.nc < t.length →
      decodeRaw c t = .error { cause := .capacityExceeded, pos := 0, char := 0 }) ∧
    (t.length ≤ c.nc → ∀ p, p < t.length → alphaIndex c (t.getD p 0) = none →
      (∀ i, i < p → alphaIndex c (t.getD i 0) ≠ none) →
      decodeRaw c t = .error { cause := .invalidCharacter, pos := p, char := t.getD p 0 }) ∧
    (t.length ≤ c.nc → ∀ d : List Nat, t.map (alphaIndex c) = d.map some →
      ∀ nz, nz ≤ d.length → (∀ i, i < nz → d.getD i 0 = 0) →
      (nz < d.length → d.getD nz 0 ≠ 0) →
      (c.nb < nz + (nat2be (digits2nat (d.drop nz))).length →
        decodeRaw c t = .error { cause := .capacityExceeded, pos := 0, char := 0 }) ∧
      (nz + (nat2be (digits2nat (d.drop nz))).length ≤ c.nb →
        decodeRaw c t = .ok (List.replicate nz 0 ++ nat2be (digits2nat (d.drop nz)))))

/-- R11: the functions on byte sequences and naturals of the encoder. -/
def Obligations.ByteNumberFunctions : Prop :=
  (∀ s : List Byte, nzeros s ≤ s.length ∧ (∀ i, i < nzeros s → s.getD i 0 = 0) ∧
    (nzeros s < s.length → s.getD (nzeros s) 0 ≠ 0)) ∧
  (be2nat [] = 0 ∧ (∀ (s : List Byte) (b : Byte), be2nat (s ++ [b]) = be2nat s * 256 + b.toNat) ∧
    ∀ (k : Nat) (s : List Byte), be2nat (List.replicate k 0 ++ s) = be2nat s) ∧
  (digits58 0 = [] ∧ ∀ v, 0 < v → digits58 v = digits58 (v / 58) ++ [v % 58])

/-- R12: the functions of the decoder. -/
def Obligations.DigitNumberFunctions : Prop :=
  (∀ (c : Config), c.wf → ∀ (ch : Byte) (i : Nat),
    alphaIndex c ch = some i ↔ i < 58 ∧ alphaAt c i = ch) ∧
  (digits2nat [] = 0 ∧ ∀ (d : List Nat) (x : Nat), digits2nat (d ++ [x]) = digits2nat d * 58 + x) ∧
  (nat2be 0 = [] ∧
    (∀ v, 0 < v → nat2be v = nat2be (v / 256) ++ [BitVec.ofNat 8 (v % 256)]) ∧
    (∀ v, 0 < v → (nat2be v).getD 0 0 ≠ 0) ∧ ∀ v, be2nat (nat2be v) = v)

/-- R66: the bound of the encoder's output, which always fits `CBUF`. -/
def Obligations.EncoderOutputFits : Prop :=
  ∀ (c : Config) (s : List Byte),
    (digits58 (be2nat (s.drop (nzeros s)))).length ≤ (3 * (s.length - nzeros s) + 1) / 2 ∧
    (encodeOut c s).length ≤ nzeros s + (3 * (s.length - nzeros s) + 1) / 2 ∧
    nzeros s + (3 * (s.length - nzeros s) + 1) / 2 ≤ (3 * s.length + 1) / 2 ∧
    (c.wf → s.length ≤ c.nb → (encodeOut c s).length ≤ c.nc)

/-- R82: the bound of the decoder's output, that it is reached, and that the output-capacity error
can occur. -/
def Obligations.DecoderOutputBound : Prop :=
  (∀ d : List Nat, (∀ x ∈ d, x < 58) →
    (nat2be (digits2nat (d.drop (nzeroDigits d)))).length ≤
      (3 * (d.length - nzeroDigits d) + 3) / 4 ∧
    (rawOf d).length ≤ nzeroDigits d + (3 * (d.length - nzeroDigits d) + 3) / 4 ∧
    nzeroDigits d + (3 * (d.length - nzeroDigits d) + 3) / 4 ≤ d.length) ∧
  (∀ m : Nat, (rawOf (List.replicate m 0)).length = m) ∧
  ∀ c : Config, c.wf → c.nb < c.nc →
    ∃ t : List Byte, t.length ≤ c.nc ∧ (∀ ch ∈ t, alphaIndex c ch ≠ none) ∧
      decodeRaw c t = .error { cause := .capacityExceeded, pos := 0, char := 0 }

/-- R83: encoder and decoder are inverse bijections between byte sequences and strings over the
alphabet, within the capacities; no two strings decode to the same bytes. -/
def Obligations.CodecRoundTrip : Prop :=
  ∀ c : Config, c.wf →
    (∀ b : List Byte, b.length ≤ c.nb → decodeRaw c (encodeOut c b) = .ok b) ∧
    (∀ t raw : List Byte, decodeRaw c t = .ok raw → encodeOut c raw = t) ∧
    (∀ t u raw : List Byte, decodeRaw c t = .ok raw → decodeRaw c u = .ok raw → t = u)

/-- R32: the inverse table of the alphabet, for every 8-bit code. -/
def Obligations.AlphabetInverseTable : Prop :=
  ∀ ch : Byte,
    alphaIndex defaultConfig ch =
      if 0x31 ≤ ch.toNat ∧ ch.toNat ≤ 0x39 then some (ch.toNat - 0x31)
      else if 0x41 ≤ ch.toNat ∧ ch.toNat ≤ 0x48 then some (ch.toNat - 0x41 + 9)
      else if 0x4A ≤ ch.toNat ∧ ch.toNat ≤ 0x4E then some (ch.toNat - 0x4A + 17)
      else if 0x50 ≤ ch.toNat ∧ ch.toNat ≤ 0x5A then some (ch.toNat - 0x50 + 22)
      else if 0x61 ≤ ch.toNat ∧ ch.toNat ≤ 0x6B then some (ch.toNat - 0x61 + 33)
      else if 0x6D ≤ ch.toNat ∧ ch.toNat ≤ 0x7A then some (ch.toNat - 0x6D + 44)
      else none

/-- Corner cases of the encoder (40_base58_encoder.md, R64): the empty input, the all-zero input, the
run of zero characters, the closure of the alphabet, and the length of the output. -/
def Obligations.EncoderCornerCases : Prop :=
  ∀ c : Config, c.wf →
    encodeOut c [] = [] ∧
    (∀ n, encodeOut c (List.replicate n 0) = List.replicate n (alphaAt c 0)) ∧
    (∀ s : List Byte, (encodeOut c s).takeWhile (· == alphaAt c 0) =
      List.replicate (nzeros s) (alphaAt c 0)) ∧
    (∀ s : List Byte, ∀ ch ∈ encodeOut c s, ∃ d, d < 58 ∧ ch = alphaAt c d) ∧
    (∀ s : List Byte, nzeros s < s.length →
      (encodeOut c s).length = nzeros s + Nat.log 58 (be2nat (s.drop (nzeros s))) + 1)

/-! ### The arithmetic of the passes -/

/-- R68 and R85: the exact widths of `ACC`, `REM`, `CARRY` and the digits written back. -/
def Obligations.AccumulatorBounds : Prop :=
  ∀ s : State,
    (s.dp.rem.toNat ≤ 57 →
      divAcc s ≤ 14847 ∧ divAcc s < 2 ^ 14 ∧ divAcc s / 58 ≤ 255 ∧ divAcc s % 58 ≤ 57) ∧
    (s.dp.carry.toNat ≤ 57 → mulAcc s ≤ 14847 ∧ mulAcc s < 2 ^ 14 ∧ mulAcc s / 256 ≤ 57)

/-- A division pass (R67, R73): from `ENC_DIV` at byte `J` with remainder `REM`, the steps up to the
end of the number leave its quotient by 58 in place and its remainder in `REM`, and change nothing
else. -/
def Obligations.DivisionPassDivides : Prop :=
  ∀ s : State, s.ph = .encDiv → s.dp.rem.toNat ≤ 57 → s.dp.j.toNat ≤ s.dp.n.toNat →
    s.dp.n.toNat ≤ s.w.length →
    let t := seqIter (s.dp.n.toNat - s.dp.j.toNat) s
    let x := s.dp.rem.toNat * 256 ^ (s.dp.n.toNat - s.dp.j.toNat) +
      be2nat ((s.w.take s.dp.n.toNat).drop s.dp.j.toNat)
    be2nat ((t.w.take s.dp.n.toNat).drop s.dp.j.toNat) = x / 58 ∧ t.dp.rem.toNat = x % 58 ∧
    t.dp.j = s.dp.n ∧ t.w.take s.dp.j.toNat = s.w.take s.dp.j.toNat ∧
    t.w.drop s.dp.n.toNat = s.w.drop s.dp.n.toNat ∧
    t = { s with w := t.w, dp := { s.dp with rem := t.dp.rem, j := t.dp.j } }

/-- A trip of the encoder's loop (R76): from `ENC_NEXT` with a number that is not finished, the block
comes back to `ENC_NEXT` with the number divided by 58, its remainder stored as the next digit, and
the head of the number found again. -/
def Obligations.EncoderTripDividesByFiftyEight : Prop :=
  ∀ s : State, Inv s → s.ph = .encNext → s.dp.start.toNat < s.dp.n.toNat →
    s.dp.n.toNat ≤ s.cfg.nb → s.dp.dl.toNat < s.cfg.nc →
    (∀ i, i < s.dp.start.toNat → readW s i = 0) →
    ∃ k, let t := seqIter k s
      t.ph = .encNext ∧ t.dp.n = s.dp.n ∧ t.dp.nz = s.dp.nz ∧
      be2nat (t.w.take s.dp.n.toNat) = be2nat (s.w.take s.dp.n.toNat) / 58 ∧
      t.dp.dl.toNat = s.dp.dl.toNat + 1 ∧
      t.d = s.d.set s.dp.dl.toNat (BitVec.ofNat 6 (be2nat (s.w.take s.dp.n.toNat) % 58)) ∧
      s.dp.start.toNat ≤ t.dp.start.toNat ∧ t.dp.start.toNat ≤ s.dp.n.toNat ∧
      (∀ i, i < t.dp.start.toNat → readW t i = 0) ∧
      (t.dp.start.toNat = s.dp.n.toNat ∨ readW t t.dp.start.toNat ≠ 0)

/-- A multiply pass (R84, R90): from `DEC_MUL` at byte `J` with carry `CARRY`, the steps up to the
end of the number leave 58 times the number plus the carry, its part above the number in `CARRY`,
and change nothing else. The bytes from `J` on are `W[NB-WL..NB-J)`, most significant first. -/
def Obligations.MultiplyPassMultiplies : Prop :=
  ∀ s : State, s.ph = .decMul → s.dp.carry.toNat ≤ 57 → s.dp.j.toNat ≤ s.dp.wl.toNat →
    s.dp.wl.toNat ≤ s.cfg.nb → s.w.length = s.cfg.nb →
    let t := seqIter (s.dp.wl.toNat - s.dp.j.toNat) s
    be2nat ((t.w.take (s.cfg.nb - s.dp.j.toNat)).drop (s.cfg.nb - s.dp.wl.toNat)) +
        t.dp.carry.toNat * 256 ^ (s.dp.wl.toNat - s.dp.j.toNat) =
      be2nat ((s.w.take (s.cfg.nb - s.dp.j.toNat)).drop (s.cfg.nb - s.dp.wl.toNat)) * 58 +
        s.dp.carry.toNat ∧
    t.dp.j = s.dp.wl ∧
    t.w.take (s.cfg.nb - s.dp.wl.toNat) = s.w.take (s.cfg.nb - s.dp.wl.toNat) ∧
    t.w.drop (s.cfg.nb - s.dp.j.toNat) = s.w.drop (s.cfg.nb - s.dp.j.toNat) ∧
    t = { s with w := t.w, dp := { s.dp with carry := t.dp.carry, j := t.dp.j } }

/-- A trip of the decoder's loop (R94): from `DEC_NEXT` with a digit left, the block comes back to
`DEC_NEXT` with 58 times the number plus the digit and no leading zero byte; or, where that number
needs more than `NB` bytes, the command fails with `CapacityExceeded`. -/
def Obligations.DecoderTripAccumulatesADigit : Prop :=
  ∀ s : State, Inv s → s.ph = .decNext → s.dp.i.toNat < s.dp.m.toNat → s.dp.m.toNat ≤ s.cfg.nc →
    s.dp.wl.toNat ≤ s.cfg.nb →
    (s.dp.wl.toNat = 0 ∨ readW s (s.cfg.nb - s.dp.wl.toNat) ≠ 0) →
    ∃ k, let t := seqIter k s
      let v := be2nat (s.w.drop (s.cfg.nb - s.dp.wl.toNat)) * 58 + (readD s s.dp.i.toNat).toNat
      (v < 256 ^ s.cfg.nb → t.ph = .decNext ∧ t.dp.i.toNat = s.dp.i.toNat + 1 ∧
        t.dp.m = s.dp.m ∧ t.dp.nz = s.dp.nz ∧ t.d = s.d ∧ t.dp.wl.toNat ≤ s.cfg.nb ∧
        be2nat (t.w.drop (s.cfg.nb - t.dp.wl.toNat)) = v ∧
        (t.dp.wl.toNat = 0 ∨ readW t (s.cfg.nb - t.dp.wl.toNat) ≠ 0)) ∧
      (256 ^ s.cfg.nb ≤ v → t.ph = .idle ∧ t.errinfo.cause = causeCode .capacityExceeded ∧
        t.bbuf = s.bbuf)

/-- R71: phase `ENC_ZEROS`, entered with `I` = 0: on leaving, `NZ = nzeros(W[0..N))`. -/
def Obligations.ZerosPhaseCountsLeadingZeros : Prop :=
  ∀ s : State, s.ph = .encZeros → s.dp.i = 0 → s.dp.n.toNat ≤ s.w.length →
    seqIter (nzeros (s.w.take s.dp.n.toNat) + 1) s =
      { s with
        ph := .encNext
        dp := { s.dp with
          i := BitVec.ofNat 13 (nzeros (s.w.take s.dp.n.toNat))
          nz := BitVec.ofNat 13 (nzeros (s.w.take s.dp.n.toNat))
          start := BitVec.ofNat 13 (nzeros (s.w.take s.dp.n.toNat))
          dl := 0 } } ∧
    (BitVec.ofNat 13 (nzeros (s.w.take s.dp.n.toNat))).toNat = nzeros (s.w.take s.dp.n.toNat)

/-! ### The hash and the checksum unit -/

/-- R100: the padded message, cell by cell, with `nb = (L + 8) div 64 + 1` blocks. -/
def Obligations.PaddingLayout : Prop :=
  ∀ msg : List Byte, 8 * msg.length < 2 ^ 64 →
    let nb := (msg.length + 8) / 64 + 1
    (shaPad msg).length = 64 * nb ∧
    (∀ k, k < msg.length → (shaPad msg).getD k 0 = msg.getD k 0) ∧
    (shaPad msg).getD msg.length 0 = 0x80 ∧
    (∀ k, msg.length < k → k < 64 * nb - 8 → (shaPad msg).getD k 0 = 0) ∧
    (∀ j, j < 8 → ((shaPad msg).getD (64 * nb - 8 + j) 0).toNat =
      8 * msg.length / 256 ^ (7 - j) % 256)

/-- R103: the hash of a 32-byte digest is one compression. -/
def Obligations.DigestHashIsOneBlock : Prop :=
  ∀ dg : List Byte, dg.length = 32 →
    sha256 dg =
      serialize (compress shaIV (dg ++ [0x80] ++ List.replicate 29 0 ++ [0x01, 0x00]))

/-- R107: the check values of the hash. -/
def Obligations.HashCheckValues : Prop :=
  sha256 [] =
    [0xe3, 0xb0, 0xc4, 0x42, 0x98, 0xfc, 0x1c, 0x14, 0x9a, 0xfb, 0xf4, 0xc8, 0x99, 0x6f, 0xb9, 0x24,
     0x27, 0xae, 0x41, 0xe4, 0x64, 0x9b, 0x93, 0x4c, 0xa4, 0x95, 0x99, 0x1b, 0x78, 0x52, 0xb8, 0x55] ∧
  sha256 [0x61, 0x62, 0x63] =
    [0xba, 0x78, 0x16, 0xbf, 0x8f, 0x01, 0xcf, 0xea, 0x41, 0x41, 0x40, 0xde, 0x5d, 0xae, 0x22, 0x23,
     0xb0, 0x03, 0x61, 0xa3, 0x96, 0x17, 0x7a, 0x9c, 0xb4, 0x10, 0xff, 0x61, 0xf2, 0x00, 0x15, 0xad] ∧
  sha256 [0x00, 0x01, 0x09, 0x66, 0x77, 0x60, 0x06, 0x95, 0x3D, 0x55, 0x67, 0x43, 0x9E, 0x5E, 0x39,
      0xF8, 0x6A, 0x0D, 0x27, 0x3B, 0xEE] =
    [0x44, 0x5c, 0x7a, 0x80, 0x07, 0xa9, 0x3d, 0x87, 0x33, 0x18, 0x82, 0x88, 0xbb, 0x32, 0x0a, 0x8f,
     0xe2, 0xde, 0xbd, 0x2a, 0xe1, 0xb4, 0x7f, 0x0f, 0x50, 0xbc, 0x10, 0xba, 0xe8, 0x45, 0xc0, 0x94] ∧
  sha256
      [0x44, 0x5c, 0x7a, 0x80, 0x07, 0xa9, 0x3d, 0x87, 0x33, 0x18, 0x82, 0x88, 0xbb, 0x32, 0x0a, 0x8f,
       0xe2, 0xde, 0xbd, 0x2a, 0xe1, 0xb4, 0x7f, 0x0f, 0x50, 0xbc, 0x10, 0xba, 0xe8, 0x45, 0xc0, 0x94] =
    [0xd6, 0x19, 0x67, 0xf6, 0x3c, 0x7d, 0xd1, 0x83, 0x91, 0x4a, 0x4a, 0xe4, 0x52, 0xc9, 0xf6, 0xad,
     0x5d, 0x46, 0x2c, 0xe3, 0xd2, 0x77, 0x79, 0x80, 0x75, 0xb1, 0x07, 0x61, 0x5c, 0x1a, 0x8a, 0x30]

/-- The checksum unit (R104, R105, R106): from `CS_INIT`, after one step for each block of the
message, `(ML + 8) div 64 + 1` of them, and three more, `DG1` holds the hash of the message `W[MB..MB+ML)`, `CK` its checksum, the
sequencer is at `RET`, and nothing outside the unit's registers has changed. -/
def Obligations.ChecksumUnitComputesTheChecksum : Prop :=
  ∀ s : State, s.ph = .csInit → s.dp.ml.toNat ≤ 2730 →
    s.dp.mb.toNat + s.dp.ml.toNat ≤ s.w.length →
    let t := seqIter ((s.dp.ml.toNat + 8) / 64 + 1 + 3) s
    t.ph = s.dp.ret ∧
    t.sha.dg1 = sha256 ((s.w.drop s.dp.mb.toNat).take s.dp.ml.toNat) ∧
    t.sha.ck = checksum ((s.w.drop s.dp.mb.toNat).take s.dp.ml.toNat) ∧
    t = { s with ph := t.ph, sha := t.sha }

/-! ### The completion steps, reset -/

/-- R128: the FAIL completion, and that a failure is precise: the destination buffer, the source
buffer and the source length are as they were at acceptance. -/
def Obligations.FailCompletion : Prop :=
  (∀ (f : Failure) (s : State),
    failWith f s =
      { s with
        errinfo := { cause := causeCode f.cause, char := f.char, pos := BitVec.ofNat 16 f.pos }
        status :=
          if s.op = 5 then { busy := false, done := true, valid := false, err := 0 }
          else { busy := false, done := true, valid := false, err := causeCode f.cause }
        clen := if s.op = 1 ∨ s.op = 3 then 0 else s.clen
        blen := if s.op = 2 ∨ s.op = 4 then 0 else s.blen
        ph := .idle }) ∧
  ∀ (i : Instr) (s t : State), Idle s → exec i s = .next t → t.errinfo.cause ≠ 0 →
    (∀ k, readBbuf t k = readBbuf s k) ∧ (∀ k, readCbuf t k = readCbuf s k) ∧
    t.blen = (if i = .b58dec ∨ i = .b58chkDec then 0 else s.blen) ∧
    t.clen = (if i = .b58enc ∨ i = .b58chkEnc then 0 else s.clen) ∧
    t.status.done = true ∧ t.status.busy = false ∧ t.status.valid = false ∧ t.ph = .idle

/-- R129: the OK completion, which keeps `ERR`, `ERRINFO` and `VALID`; and the three steps it is the
last part of, which also write the destination length or set `VALID`. -/
def Obligations.OkCompletion : Prop :=
  (∀ s : State,
    complete s =
      { s with
        status := { busy := false, done := true, valid := s.status.valid, err := s.status.err }
        ph := .idle }) ∧
  (∀ s : State, s.ph = .encEmit → s.dp.nz.toNat + s.dp.dl.toNat ≤ s.dp.k.toNat →
    seqStep s = complete { s with clen := BitVec.ofNat 16 (s.dp.nz.toNat + s.dp.dl.toNat) }) ∧
  (∀ s : State, s.ph = .decCommit → s.dp.outl.toNat ≤ s.dp.k.toNat →
    seqStep s = complete { s with blen := BitVec.ofNat 16 s.dp.outl.toNat }) ∧
  ∀ s : State, s.ph = .chkCmp → s.op = 5 →
    (∀ k, k < 4 → s.sha.ck.getD k 0 = readW s (s.cfg.nb - 4 + k)) →
    seqStep s = complete { s with status := { s.status with valid := true } }

/-- R33: the reset values, as the host reads them. -/
def Obligations.ResetValues : Prop :=
  hostReadValue State.reset 1 = 0x00000000 ∧ hostReadValue State.reset 2 = 0x00000000 ∧
  hostReadValue State.reset 3 = 0x00000000 ∧ hostReadValue State.reset 4 = 0x00000000 ∧
  State.reset.ph = .idle ∧ hostReadValue State.reset 5 = 0x00C00080 ∧
  hostReadValue State.reset 0 = 0x00000000 ∧
  State.reset.status = { busy := false, done := false, valid := false, err := 0 }

/-- A reset period, whatever the block was doing (70_reset_and_hazards.md section 1): the reset values;
the buffers hold unspecified values again; a write made in it is lost, a read returns an unspecified
word. The model's choices: the unspecified cells are the free values of the next `epoch` (DESIGN
CHOICE, assumption 3), the unspecified word is the next free word (DESIGN CHOICE, assumption 4), and
the parameters, the schedule and the host's log go on (DESIGN CHOICE, assumption 11). -/
def Obligations.ResetPeriod : Prop :=
  ∀ (s : State) (lost : Option Access) (rest : List ScriptLine), s.script = .rst lost :: rest →
    ∃ t, step s = .next t ∧
      t.status = { busy := false, done := false, valid := false, err := 0 } ∧
      t.errinfo = { cause := 0, char := 0, pos := 0 } ∧ t.blen = 0 ∧ t.clen = 0 ∧ t.ph = .idle ∧
      t.cfg = s.cfg ∧ t.script = rest ∧
      (∀ i, readBbuf t i = Config.freeBbufCell (s.epoch + 1) i) ∧
      (∀ i, readCbuf t i = Config.freeCbufCell (s.epoch + 1) i) ∧
      ((∃ a, lost = some (.read a)) → t.readLog = Config.freeReadWord s.draws :: s.readLog) ∧
      ((¬ ∃ a, lost = some (.read a)) → t.readLog = s.readLog)

/-! ### Rules of the whole machine -/

/-- The reset state is sound. The hidden registers' reset values in it are the model's choice: DESIGN
CHOICE, assumption 2. -/
def Obligations.SoundStateAtReset : Prop := Inv State.reset

/-- Every step keeps a sound state sound: the parameters, the canonical form and the size of every
buffer, the exact widths, `PH = IDLE` if and only if `BUSY = 0`, `BUSY` and `DONE` never both, the
phase of the running command, and no code 1 or 7 ever reported. -/
def Obligations.EveryStepKeepsSoundState : Prop :=
  ∀ s t : State, Inv s → step s = .next t → Inv t

/-- R62: the phase graph. -/
def Obligations.PhaseGraph : Prop :=
  ∀ s : State, Inv s → (seqStep s).ph ∈ phaseSuccessors s.ph s.op s.dp.ret

/-- The sequencer never writes the source of the running command, and the validator's run writes no
byte of `BBUF` and no length (30_encoding.md section 3). -/
def Obligations.SequencerNeverWritesItsSource : Prop :=
  ∀ s : State, Inv s → s.status.busy = true →
    (s.op = 1 ∨ s.op = 3 → SameBytes s (seqStep s)) ∧
    (s.op = 2 ∨ s.op = 4 ∨ s.op = 5 → SameChars s (seqStep s)) ∧
    (s.op = 5 → SameBytes s (seqStep s))

/-- The completion handshake (20_memory.md section 7): a step that completes a command writes no cell
of either buffer, and sets `DONE`; a step that does not leaves `STATUS`, `ERRINFO` and both lengths
as they are. -/
def Obligations.CompletionComesLast : Prop :=
  ∀ s : State, Inv s → s.status.busy = true →
    ((seqStep s).status.busy = false →
      (seqStep s).bbuf = s.bbuf ∧ (seqStep s).cbuf = s.cbuf ∧ (seqStep s).status.done = true ∧
        (seqStep s).ph = .idle) ∧
    ((seqStep s).status.busy = true →
      (seqStep s).status = s.status ∧ (seqStep s).errinfo = s.errinfo ∧
        (seqStep s).blen = s.blen ∧ (seqStep s).clen = s.clen)

/-- Host writes made while a command runs do not disturb it, wherever they fall between the
sequencer's steps (20_memory.md section 6, 95_test_vectors.md P5). -/
def Obligations.BusyWritesDoNotDisturb : Prop :=
  ∀ (ls : List ScriptLine) (s : State), (∀ l ∈ ls, isWriteOrTurn l = true) →
    (∀ p, p <+: ls → (p.foldl applyLine s).status.busy = true) →
    ls.foldl applyLine s = seqIter (ls.count .sequencer) s

/-- An error report stays until the next write to `CMD` or a reset (60_exceptions.md section 4): no
other step, at any other line of the schedule or at its end, changes `STATUS` or `ERRINFO` of an idle
block. -/
def Obligations.ErrorReportStays : Prop :=
  ∀ s t : State, Inv s → Idle s →
    (∀ v rest, s.script ≠ .access (.write 0 v) :: rest) → (∀ v rest, s.script ≠ .run v :: rest) →
    (∀ x rest, s.script ≠ .rst x :: rest) → step s = .next t →
    t.status = s.status ∧ t.errinfo = s.errinfo

/-- Statelessness between commands (10_state.md section 1): the result of a command depends on its
source below its length and on nothing else. -/
def Obligations.ResultDependsOnlyOnTheSource : Prop :=
  ∀ s t : State, s.cfg.wf → t.cfg = s.cfg → Idle s → Idle t →
    (s.blen = t.blen → (∀ k, k < s.blen.toNat → readBbuf s k = readBbuf t k) →
      ∀ i, i = .b58enc ∨ i = .b58chkEnc →
      ∃ u v, exec i s = .next u ∧ exec i t = .next v ∧ u.status = v.status ∧
        u.errinfo = v.errinfo ∧ u.clen = v.clen ∧
        ∀ k, k < u.clen.toNat → readCbuf u k = readCbuf v k) ∧
    (s.clen = t.clen → (∀ k, k < s.clen.toNat → readCbuf s k = readCbuf t k) →
      (∀ i, i = .b58dec ∨ i = .b58chkDec →
        ∃ u v, exec i s = .next u ∧ exec i t = .next v ∧ u.status = v.status ∧
          u.errinfo = v.errinfo ∧ u.blen = v.blen ∧
          ∀ k, k < u.blen.toNat → readBbuf u k = readBbuf v k) ∧
      ∃ u v, exec .b58chkValid s = .next u ∧ exec .b58chkValid t = .next v ∧
        u.status = v.status ∧ u.errinfo = v.errinfo)

/-- R116: the validator's answer is the checksum decoder's success, and its record of a failure is
the checksum decoder's; at step level the two commands run the same steps up to `CHK_CMP`. -/
def Obligations.ValidatorAgreesWithDecoder : Prop :=
  (∀ s : State, Idle s →
    ∃ u v, exec .b58chkValid s = .next u ∧ exec .b58chkDec s = .next v ∧
      (u.status.valid = true ↔ v.status.err = 0) ∧
      (u.status.valid = false → u.errinfo = v.errinfo)) ∧
  ∀ s : State, Inv s → s.op = 5 → s.ph ≠ .chkCmp → (seqStep s).status.busy = true →
    seqStep { s with op := 4 } = { seqStep s with op := 4 }

/-- R117: the validator never raises. -/
def Obligations.ValidatorNeverRaises : Prop :=
  ∀ s : State, Idle s →
    ∃ t, exec .b58chkValid s = .next t ∧ t.status.err = 0 ∧ t.status.done = true

/-- R130: the validator is the only command whose failures leave `ERR` = 0. -/
def Obligations.OnlyTheValidatorSwallows : Prop :=
  ∀ (s t : State) (i : Instr), Idle s → exec i s = .next t →
    (i ≠ .b58chkValid → t.status.err = t.errinfo.cause) ∧
    (i = .b58chkValid → t.status.err = 0) ∧ (t.errinfo.cause = 0 → t.status.err = 0)

/-- The order of the tests (60_exceptions.md section 2): the cause recorded is that of the first test
that fails. -/
def Obligations.FirstFailingTestDecides : Prop :=
  ∀ s : State, Idle s →
    let t := sourceChars s
    let raw := rawOf (digitValues s.cfg t)
    let bad := t.any fun ch => (alphaIndex s.cfg ch).isNone
    (∃ u, exec .b58enc s = .next u ∧
      u.errinfo.cause = if s.cfg.nb < s.blen.toNat then 5 else 0) ∧
    (∃ u, exec .b58chkEnc s = .next u ∧
      u.errinfo.cause = if s.cfg.nb < s.blen.toNat + 4 then 5 else 0) ∧
    (∃ u, exec .b58dec s = .next u ∧
      u.errinfo.cause =
        if s.cfg.nc < s.clen.toNat then 5 else if bad then 2
        else if s.cfg.nb < raw.length then 5 else 0) ∧
    ∀ i, i = .b58chkDec ∨ i = .b58chkValid →
      ∃ u, exec i s = .next u ∧
        u.errinfo.cause =
          if s.cfg.nc < s.clen.toNat then 5 else if bad then 2
          else if s.cfg.nb < raw.length then 5 else if raw.length < 4 then 3
          else if raw.drop (raw.length - 4) ≠ checksum (raw.take (raw.length - 4)) then 4 else 0

/-- R118: the checksum round trip on the block. `B58CHK_ENC`, then `B58CHK_DEC` from what it left,
gives the bytes back; `B58CHK_VALID` from the same string answers true. -/
def Obligations.ChecksumRoundTrip : Prop :=
  ∀ s : State, s.cfg.wf → Idle s → s.blen.toNat + 4 ≤ s.cfg.nb →
    ∃ t u v, exec .b58chkEnc s = .next t ∧ exec .b58chkDec t = .next u ∧
      exec .b58chkValid t = .next v ∧
      u.status.err = 0 ∧ u.blen = s.blen ∧
      (∀ k, k < s.blen.toNat → readBbuf u k = readBbuf s k) ∧ v.status.valid = true

/-- The load pseudo-lines (R60): `LOADB` and `LOADC` fill the cells of their buffer in order and set
its length, and change nothing else the host can see. -/
def Obligations.LoadLinesFillTheBuffers : Prop :=
  ∀ (s : State) (vs : List Byte) (rest : List ScriptLine), s.cfg.wf → Idle s →
    (vs.length ≤ s.cfg.nb → s.script = loadB vs ++ rest →
      ∃ t, runSteps (vs.length + 1) s = .next t ∧ t.script = rest ∧ BytesDelivered vs s t ∧
        SameChars s t ∧ t.status = s.status ∧ t.errinfo = s.errinfo ∧ t.ph = s.ph) ∧
    (vs.length ≤ s.cfg.nc → s.script = loadC vs ++ rest →
      ∃ t, runSteps (vs.length + 1) s = .next t ∧ t.script = rest ∧ CharsDelivered vs s t ∧
        SameBytes s t ∧ t.status = s.status ∧ t.errinfo = s.errinfo ∧ t.ph = s.ph)

/-! ### The sequencer computes the commands -/

/-- The encoder at step level (R69 to R75, R104 to R106, R110) computes `B58ENC` and `B58CHK_ENC` at
operation level (R63, R109): from acceptance, finitely many sequencer steps lead to `IDLE`, and the
state there is that of the operation-level rule, but for the hidden scratch state, which that rule
keeps by the model's choice: DESIGN CHOICE, assumption 1. -/
def Obligations.EncoderSequencerComputesTheCommand : Prop :=
  ∀ s : State, Inv s → Idle s → ∀ i, i = .b58enc ∨ i = .b58chkEnc →
    ∃ n, (seqIter n (hostWrite 0 (portWord i) s)).ph = .idle ∧
      exec i s = .next (withScratchOf s (seqIter n (hostWrite 0 (portWord i) s)))

/-- The decoder at step level (R86 to R93) computes `B58DEC` at operation level (R79), but for the
hidden scratch state: DESIGN CHOICE, assumption 1. -/
def Obligations.DecoderSequencerComputesTheCommand : Prop :=
  ∀ s : State, Inv s → Idle s →
    ∃ n, (seqIter n (hostWrite 0 (portWord .b58dec) s)).ph = .idle ∧
      exec .b58dec s = .next (withScratchOf s (seqIter n (hostWrite 0 (portWord .b58dec) s)))

/-- The decoder and the checksum phases at step level (R86 to R93, R104 to R106, R113, R114) compute
`B58CHK_DEC` and `B58CHK_VALID` at operation level (R111, R115), but for the hidden scratch state:
DESIGN CHOICE, assumption 1. -/
def Obligations.CheckSequencerComputesTheCommand : Prop :=
  ∀ s : State, Inv s → Idle s → ∀ i, i = .b58chkDec ∨ i = .b58chkValid →
    ∃ n, (seqIter n (hostWrite 0 (portWord i) s)).ph = .idle ∧
      exec i s = .next (withScratchOf s (seqIter n (hostWrite 0 (portWord i) s)))

/-- R142: every accepted command completes, after finitely many sequencer steps, whatever the
buffers and length registers hold; every step before the completion leaves `BUSY` = 1. -/
def Obligations.AcceptedCommandCompletes : Prop :=
  ∀ (s : State) (v : Word), Inv s → Idle s →
    1 ≤ (v.extractLsb' 0 8).toNat → (v.extractLsb' 0 8).toNat ≤ 5 →
    ∃ n, (seqIter n (hostWrite 0 v s)).ph = .idle ∧
      (seqIter n (hostWrite 0 v s)).status.busy = false ∧
      (seqIter n (hostWrite 0 v s)).status.done = true ∧
      ∀ k, k < n → (seqIter k (hostWrite 0 v s)).status.busy = true
end

