-- ==== Sys2Proof/Laws/BaseConv.lean ====
section
/-!
SUPPORT. Laws/BaseConv.lean: the recursion of the number functions, so that no later proof unfolds
their definitions.
-/

namespace Sys2Proof.Machine

/-- Enough divisions are enough: more make no difference. -/
theorem digitsIn_fuel (base : Nat) (hb : 2 ≤ base) :
    ∀ (fuel v : Nat), v ≤ fuel → digitsIn base fuel v = digitsIn base v v := by
  intro fuel
  induction fuel using Nat.strong_induction_on with
  | _ fuel ih =>
    intro v hv
    match fuel, v, hv with
    | 0, v, hv =>
      obtain rfl : v = 0 := by omega
      rfl
    | fuel + 1, 0, _ => simp [digitsIn]
    | fuel + 1, v + 1, hv =>
      have hlt : (v + 1) / base ≤ v := by
        have : (v + 1) / base < v + 1 := Nat.div_lt_self (Nat.succ_pos v) (by omega)
        omega
      have h1 := ih fuel (Nat.lt_succ_self fuel) ((v + 1) / base) (by omega)
      simp only [digitsIn, Nat.succ_ne_zero, if_false]
      rw [h1]
      rcases Nat.lt_or_ge v (fuel + 1) with hvf | hvf
      · rw [ih v hvf ((v + 1) / base) hlt]
      · obtain rfl : v = fuel := by omega
        rw [h1]

/-- The number 0 has no digits (R11). -/
@[simp] theorem digitsIn_zero (base fuel : Nat) : digitsIn base fuel 0 = [] := by
  cases fuel <;> simp [digitsIn]

/-- The last digit of a positive number is its remainder, the others are those of its quotient. -/
theorem digitsIn_self (base : Nat) (hb : 2 ≤ base) (v : Nat) (hv : 0 < v) :
    digitsIn base v v = digitsIn base (v / base) (v / base) ++ [v % base] := by
  match v, hv with
  | v + 1, _ =>
    have hlt : (v + 1) / base ≤ v := by
      have : (v + 1) / base < v + 1 := Nat.div_lt_self (Nat.succ_pos v) (by omega)
      omega
    rw [show digitsIn base (v + 1) (v + 1) = digitsIn base v ((v + 1) / base) ++ [(v + 1) % base]
      by simp [digitsIn], digitsIn_fuel base hb v _ hlt]

/-- The empty sequence is the number 0. -/
@[simp] theorem be2nat_nil : be2nat [] = 0 := rfl

@[simp] theorem digits2nat_nil : digits2nat [] = 0 := rfl

/-- A byte sequence of one byte more. -/
theorem be2nat_concat (s : List Byte) (b : Byte) : be2nat (s ++ [b]) = be2nat s * 256 + b.toNat := by
  simp [be2nat]

/-- A digit sequence of one digit more. -/
theorem digits2nat_concat (d : List Nat) (x : Nat) :
    digits2nat (d ++ [x]) = digits2nat d * 58 + x := by
  simp [digits2nat]

/-- The number of a sequence begun by another. -/
theorem be2nat_append (s t : List Byte) : be2nat (s ++ t) = be2nat s * 256 ^ t.length + be2nat t := by
  induction t using List.reverseRecOn with
  | nil => simp
  | append_singleton t b ih =>
    rw [← List.append_assoc, be2nat_concat, be2nat_concat, ih, List.length_append,
      List.length_singleton, pow_succ]
    ring

/-- The number of a digit sequence begun by another. -/
theorem digits2nat_append (d e : List Nat) :
    digits2nat (d ++ e) = digits2nat d * 58 ^ e.length + digits2nat e := by
  induction e using List.reverseRecOn with
  | nil => simp
  | append_singleton e x ih =>
    rw [← List.append_assoc, digits2nat_concat, digits2nat_concat, ih, List.length_append,
      List.length_singleton, pow_succ]
    ring

end Sys2Proof.Machine
end

