-- ==== Sys2Proof/Laws/Memory.lean ====
section
/-!
SUPPORT. Laws/Memory.lean: what a buffer's operations do: read after write, and that every write
keeps the canonical form.
-/

namespace Sys2Proof.Machine

@[simp] theorem Memory.read_nil (i : Nat) : Memory.read [] i = none := rfl

theorem Memory.read_cons (a : Nat) (v : Byte) (m : Memory) (i : Nat) :
    Memory.read ((a, v) :: m) i = if a = i then some v else Memory.read m i := rfl

/-- A read after an insertion. -/
theorem Memory.read_insert (m : Memory) (i : Nat) (v : Byte) (j : Nat) :
    Memory.read (Memory.insert m i v) j = if j = i then some v else Memory.read m j := by
  induction m with
  | nil => simp [Memory.insert, Memory.read_cons, eq_comm]
  | cons c rest ih =>
    obtain ⟨a, u⟩ := c
    simp only [Memory.insert]
    by_cases h1 : i < a
    · rw [if_pos h1, Memory.read_cons]
      by_cases hj : j = i
      · rw [if_pos hj.symm, if_pos hj]
      · rw [if_neg (Ne.symm hj), if_neg hj]
    · rw [if_neg h1]
      by_cases h2 : i = a
      · subst h2
        rw [if_pos rfl, Memory.read_cons, Memory.read_cons]
        by_cases hj : j = i
        · rw [if_pos hj.symm, if_pos hj]
        · rw [if_neg (Ne.symm hj), if_neg hj, if_neg (Ne.symm hj)]
      · rw [if_neg h2, Memory.read_cons, Memory.read_cons, ih]
        by_cases ha : a = j
        · rw [if_pos ha, if_pos ha, if_neg (by omega)]
        · rw [if_neg ha, if_neg ha]

/-- A read after a write: the value written where the cell exists, else what was there. -/
theorem Memory.read_write (size : Nat) (m : Memory) (i : Nat) (v : Byte) (j : Nat) :
    Memory.read (Memory.write size m i v) j =
      if j = i ∧ i < size then some v else Memory.read m j := by
  unfold Memory.write
  by_cases h : i < size <;> simp [h, Memory.read_insert]

/-- A read after a run of writes. -/
theorem Memory.read_writeAll (size : Nat) (m : Memory) (base : Nat) (vs : List Byte) (j : Nat) :
    Memory.read (Memory.writeAll size m base vs) j =
      if base ≤ j ∧ j < base + vs.length ∧ j < size then some (vs.getD (j - base) 0)
      else Memory.read m j := by
  induction vs generalizing m base with
  | nil =>
    have : ¬ (base ≤ j ∧ j < base ∧ j < size) := by omega
    simp [Memory.writeAll, this]
  | cons v rest ih =>
    simp only [Memory.writeAll, ih, Memory.read_write, List.length_cons]
    by_cases hj : j = base
    · subst hj
      by_cases hs : j < size
      · simp [hs]
      · simp [hs]
    · by_cases hr : base + 1 ≤ j ∧ j < base + 1 + rest.length ∧ j < size
      · have h2 : base ≤ j ∧ j < base + (rest.length + 1) ∧ j < size := by omega
        have h3 : j - base = (j - (base + 1)) + 1 := by omega
        rw [if_pos hr, if_pos h2, h3, List.getD_cons_succ]
      · have h2 : ¬ (base ≤ j ∧ j < base + (rest.length + 1) ∧ j < size) := by omega
        rw [if_neg hr, if_neg h2]
        simp [hj]

/-- Every listed index after an insertion was listed before or is the one inserted. -/
theorem Memory.mem_keys_insert (m : Memory) (i : Nat) (v : Byte) (a : Nat) :
    a ∈ (Memory.insert m i v).map Prod.fst → a = i ∨ a ∈ m.map Prod.fst := by
  induction m with
  | nil => simp [Memory.insert]
  | cons c rest ih =>
    obtain ⟨b, u⟩ := c
    simp only [Memory.insert]
    split_ifs with h1 h2
    · simp only [List.map_cons, List.mem_cons]; tauto
    · simp only [List.map_cons, List.mem_cons]; tauto
    · simp only [List.map_cons, List.mem_cons]
      rintro (h | h)
      · exact .inr (.inl h)
      · rcases ih h with h | h
        · exact .inl h
        · exact .inr (.inr h)

/-- An insertion keeps the rising order. -/
theorem Memory.rising_insert (m : Memory) (i : Nat) (v : Byte)
    (h : (m.map Prod.fst).Pairwise (· < ·)) :
    ((Memory.insert m i v).map Prod.fst).Pairwise (· < ·) := by
  induction m with
  | nil => simp [Memory.insert]
  | cons c rest ih =>
    obtain ⟨b, u⟩ := c
    simp only [List.map_cons, List.pairwise_cons] at h
    simp only [Memory.insert]
    split_ifs with h1 h2
    · simp only [List.map_cons, List.pairwise_cons, List.mem_cons]
      refine ⟨?_, h.1, h.2⟩
      rintro x (rfl | hx)
      · exact h1
      · exact lt_trans h1 (h.1 x hx)
    · subst h2
      simpa using h
    · simp only [List.map_cons, List.pairwise_cons]
      refine ⟨fun x hx => ?_, ih h.2⟩
      rcases Memory.mem_keys_insert rest i v x hx with rfl | hx
      · omega
      · exact h.1 x hx

/-- A write keeps the canonical form. -/
theorem Memory.wf_write (size : Nat) (m : Memory) (i : Nat) (v : Byte) (h : Memory.wf size m) :
    Memory.wf size (Memory.write size m i v) := by
  unfold Memory.write
  split_ifs with hi
  · refine ⟨Memory.rising_insert m i v h.1, fun a ha => ?_⟩
    rcases Memory.mem_keys_insert m i v a ha with rfl | ha
    · exact hi
    · exact h.2 a ha
  · exact h

/-- A run of writes keeps the canonical form. -/
theorem Memory.wf_writeAll (size : Nat) (m : Memory) (base : Nat) (vs : List Byte)
    (h : Memory.wf size m) : Memory.wf size (Memory.writeAll size m base vs) := by
  induction vs generalizing m base with
  | nil => exact h
  | cons v rest ih => exact ih _ _ (Memory.wf_write size m base v h)

/-- A buffer with nothing listed is in canonical form. -/
theorem Memory.wf_nil (size : Nat) : Memory.wf size [] :=
  ⟨List.Pairwise.nil, fun _ h => absurd h List.not_mem_nil⟩

/-- A cell at or above the size is never listed. -/
theorem Memory.read_of_size_le (size : Nat) (m : Memory) (h : Memory.wf size m) (i : Nat)
    (hi : size ≤ i) : Memory.read m i = none := by
  induction m with
  | nil => rfl
  | cons c rest ih =>
    obtain ⟨a, u⟩ := c
    have ha : a < size := h.2 a (by simp)
    have hr : Memory.wf size rest := by
      refine ⟨?_, fun x hx => h.2 x (by simp only [List.map_cons, List.mem_cons]; exact .inr hx)⟩
      have := h.1
      simp only [List.map_cons, List.pairwise_cons] at this
      exact this.2
    rw [Memory.read_cons, if_neg (by omega), ih hr]

/-- Writing one after the other is writing all: the last cell of a run may be written on its own. -/
theorem Memory.writeAll_append (size : Nat) (m : Memory) (base : Nat) (us vs : List Byte) :
    Memory.writeAll size m base (us ++ vs) =
      Memory.writeAll size (Memory.writeAll size m base us) (base + us.length) vs := by
  induction us generalizing m base with
  | nil => simp [Memory.writeAll]
  | cons u rest ih =>
    simp only [List.cons_append, Memory.writeAll, ih, List.length_cons]
    congr 1
    omega

end Sys2Proof.Machine
end

