-- ==== Sys2Proof/Laws/State.lean ====
section
/-!
SUPPORT. Laws/State.lean: the fields of the state after each named update: one lemma per field that
matters, all true by definition, so that no later proof unfolds a record update.
-/

namespace Sys2Proof.Machine

/-! ### Acceptance (R57) -/

@[simp] theorem accept_status (i : Instr) (s : State) : (accept i s).status = statusRunning := rfl
@[simp] theorem accept_errinfo (i : Instr) (s : State) : (accept i s).errinfo = errInfoClear := rfl
@[simp] theorem accept_op (i : Instr) (s : State) : (accept i s).op = opcodeOf i := rfl
@[simp] theorem accept_cfg (i : Instr) (s : State) : (accept i s).cfg = s.cfg := rfl
@[simp] theorem accept_blen (i : Instr) (s : State) : (accept i s).blen = s.blen := rfl
@[simp] theorem accept_clen (i : Instr) (s : State) : (accept i s).clen = s.clen := rfl
@[simp] theorem accept_bbuf (i : Instr) (s : State) : (accept i s).bbuf = s.bbuf := rfl
@[simp] theorem accept_cbuf (i : Instr) (s : State) : (accept i s).cbuf = s.cbuf := rfl
@[simp] theorem accept_dp (i : Instr) (s : State) : (accept i s).dp = s.dp := rfl
@[simp] theorem accept_sha (i : Instr) (s : State) : (accept i s).sha = s.sha := rfl
@[simp] theorem accept_w (i : Instr) (s : State) : (accept i s).w = s.w := rfl
@[simp] theorem accept_d (i : Instr) (s : State) : (accept i s).d = s.d := rfl
@[simp] theorem accept_script (i : Instr) (s : State) : (accept i s).script = s.script := rfl
@[simp] theorem accept_readLog (i : Instr) (s : State) : (accept i s).readLog = s.readLog := rfl
@[simp] theorem accept_epoch (i : Instr) (s : State) : (accept i s).epoch = s.epoch := rfl
@[simp] theorem accept_draws (i : Instr) (s : State) : (accept i s).draws = s.draws := rfl

/-! ### The FAIL completion (R128) -/

@[simp] theorem failWith_status (f : Failure) (s : State) :
    (failWith f s).status = statusFailed s.op f.cause := rfl
@[simp] theorem failWith_errinfo (f : Failure) (s : State) :
    (failWith f s).errinfo = errInfoFailed f := rfl
@[simp] theorem failWith_clen (f : Failure) (s : State) :
    (failWith f s).clen = if s.op = 1 ∨ s.op = 3 then 0 else s.clen := rfl
@[simp] theorem failWith_blen (f : Failure) (s : State) :
    (failWith f s).blen = if s.op = 2 ∨ s.op = 4 then 0 else s.blen := rfl
@[simp] theorem failWith_ph (f : Failure) (s : State) : (failWith f s).ph = .idle := rfl
@[simp] theorem failWith_op (f : Failure) (s : State) : (failWith f s).op = s.op := rfl
@[simp] theorem failWith_cfg (f : Failure) (s : State) : (failWith f s).cfg = s.cfg := rfl
@[simp] theorem failWith_bbuf (f : Failure) (s : State) : (failWith f s).bbuf = s.bbuf := rfl
@[simp] theorem failWith_cbuf (f : Failure) (s : State) : (failWith f s).cbuf = s.cbuf := rfl
@[simp] theorem failWith_dp (f : Failure) (s : State) : (failWith f s).dp = s.dp := rfl
@[simp] theorem failWith_sha (f : Failure) (s : State) : (failWith f s).sha = s.sha := rfl
@[simp] theorem failWith_w (f : Failure) (s : State) : (failWith f s).w = s.w := rfl
@[simp] theorem failWith_d (f : Failure) (s : State) : (failWith f s).d = s.d := rfl
@[simp] theorem failWith_script (f : Failure) (s : State) : (failWith f s).script = s.script := rfl
@[simp] theorem failWith_readLog (f : Failure) (s : State) :
    (failWith f s).readLog = s.readLog := rfl
@[simp] theorem failWith_epoch (f : Failure) (s : State) : (failWith f s).epoch = s.epoch := rfl
@[simp] theorem failWith_draws (f : Failure) (s : State) : (failWith f s).draws = s.draws := rfl

/-! ### The OK completion (R129) -/

@[simp] theorem complete_status (s : State) : (complete s).status = statusCompleted s.status := rfl
@[simp] theorem complete_ph (s : State) : (complete s).ph = .idle := rfl
@[simp] theorem complete_errinfo (s : State) : (complete s).errinfo = s.errinfo := rfl
@[simp] theorem complete_op (s : State) : (complete s).op = s.op := rfl
@[simp] theorem complete_cfg (s : State) : (complete s).cfg = s.cfg := rfl
@[simp] theorem complete_blen (s : State) : (complete s).blen = s.blen := rfl
@[simp] theorem complete_clen (s : State) : (complete s).clen = s.clen := rfl
@[simp] theorem complete_bbuf (s : State) : (complete s).bbuf = s.bbuf := rfl
@[simp] theorem complete_cbuf (s : State) : (complete s).cbuf = s.cbuf := rfl
@[simp] theorem complete_dp (s : State) : (complete s).dp = s.dp := rfl
@[simp] theorem complete_sha (s : State) : (complete s).sha = s.sha := rfl
@[simp] theorem complete_w (s : State) : (complete s).w = s.w := rfl
@[simp] theorem complete_d (s : State) : (complete s).d = s.d := rfl
@[simp] theorem complete_script (s : State) : (complete s).script = s.script := rfl
@[simp] theorem complete_readLog (s : State) : (complete s).readLog = s.readLog := rfl
@[simp] theorem complete_epoch (s : State) : (complete s).epoch = s.epoch := rfl
@[simp] theorem complete_draws (s : State) : (complete s).draws = s.draws := rfl

@[simp] theorem setValid_status (s : State) :
    (setValid s).status = { s.status with valid := true } := rfl
@[simp] theorem setValid_errinfo (s : State) : (setValid s).errinfo = s.errinfo := rfl
@[simp] theorem setValid_op (s : State) : (setValid s).op = s.op := rfl
@[simp] theorem setValid_cfg (s : State) : (setValid s).cfg = s.cfg := rfl
@[simp] theorem setValid_blen (s : State) : (setValid s).blen = s.blen := rfl
@[simp] theorem setValid_clen (s : State) : (setValid s).clen = s.clen := rfl
@[simp] theorem setValid_bbuf (s : State) : (setValid s).bbuf = s.bbuf := rfl
@[simp] theorem setValid_cbuf (s : State) : (setValid s).cbuf = s.cbuf := rfl
@[simp] theorem setValid_dp (s : State) : (setValid s).dp = s.dp := rfl
@[simp] theorem setValid_sha (s : State) : (setValid s).sha = s.sha := rfl
@[simp] theorem setValid_w (s : State) : (setValid s).w = s.w := rfl
@[simp] theorem setValid_d (s : State) : (setValid s).d = s.d := rfl
@[simp] theorem setValid_script (s : State) : (setValid s).script = s.script := rfl
@[simp] theorem setValid_readLog (s : State) : (setValid s).readLog = s.readLog := rfl
@[simp] theorem setValid_epoch (s : State) : (setValid s).epoch = s.epoch := rfl
@[simp] theorem setValid_draws (s : State) : (setValid s).draws = s.draws := rfl

/-! ### The delivery of a result (R56) -/

@[simp] theorem deliverChars_clen (out : List Byte) (s : State) :
    (deliverChars out s).clen = BitVec.ofNat 16 out.length := rfl
@[simp] theorem deliverChars_cbuf (out : List Byte) (s : State) :
    (deliverChars out s).cbuf = Memory.writeAll s.cfg.nc s.cbuf 0 out := rfl
@[simp] theorem deliverChars_status (out : List Byte) (s : State) :
    (deliverChars out s).status = s.status := rfl
@[simp] theorem deliverChars_errinfo (out : List Byte) (s : State) :
    (deliverChars out s).errinfo = s.errinfo := rfl
@[simp] theorem deliverChars_op (out : List Byte) (s : State) : (deliverChars out s).op = s.op := rfl
@[simp] theorem deliverChars_cfg (out : List Byte) (s : State) :
    (deliverChars out s).cfg = s.cfg := rfl
@[simp] theorem deliverChars_blen (out : List Byte) (s : State) :
    (deliverChars out s).blen = s.blen := rfl
@[simp] theorem deliverChars_bbuf (out : List Byte) (s : State) :
    (deliverChars out s).bbuf = s.bbuf := rfl
@[simp] theorem deliverChars_dp (out : List Byte) (s : State) : (deliverChars out s).dp = s.dp := rfl
@[simp] theorem deliverChars_sha (out : List Byte) (s : State) :
    (deliverChars out s).sha = s.sha := rfl
@[simp] theorem deliverChars_w (out : List Byte) (s : State) : (deliverChars out s).w = s.w := rfl
@[simp] theorem deliverChars_d (out : List Byte) (s : State) : (deliverChars out s).d = s.d := rfl
@[simp] theorem deliverChars_script (out : List Byte) (s : State) :
    (deliverChars out s).script = s.script := rfl
@[simp] theorem deliverChars_readLog (out : List Byte) (s : State) :
    (deliverChars out s).readLog = s.readLog := rfl
@[simp] theorem deliverChars_epoch (out : List Byte) (s : State) :
    (deliverChars out s).epoch = s.epoch := rfl
@[simp] theorem deliverChars_draws (out : List Byte) (s : State) :
    (deliverChars out s).draws = s.draws := rfl

@[simp] theorem deliverBytes_blen (out : List Byte) (s : State) :
    (deliverBytes out s).blen = BitVec.ofNat 16 out.length := rfl
@[simp] theorem deliverBytes_bbuf (out : List Byte) (s : State) :
    (deliverBytes out s).bbuf = Memory.writeAll s.cfg.nb s.bbuf 0 out := rfl
@[simp] theorem deliverBytes_status (out : List Byte) (s : State) :
    (deliverBytes out s).status = s.status := rfl
@[simp] theorem deliverBytes_errinfo (out : List Byte) (s : State) :
    (deliverBytes out s).errinfo = s.errinfo := rfl
@[simp] theorem deliverBytes_op (out : List Byte) (s : State) : (deliverBytes out s).op = s.op := rfl
@[simp] theorem deliverBytes_cfg (out : List Byte) (s : State) :
    (deliverBytes out s).cfg = s.cfg := rfl
@[simp] theorem deliverBytes_clen (out : List Byte) (s : State) :
    (deliverBytes out s).clen = s.clen := rfl
@[simp] theorem deliverBytes_cbuf (out : List Byte) (s : State) :
    (deliverBytes out s).cbuf = s.cbuf := rfl
@[simp] theorem deliverBytes_dp (out : List Byte) (s : State) : (deliverBytes out s).dp = s.dp := rfl
@[simp] theorem deliverBytes_sha (out : List Byte) (s : State) :
    (deliverBytes out s).sha = s.sha := rfl
@[simp] theorem deliverBytes_w (out : List Byte) (s : State) : (deliverBytes out s).w = s.w := rfl
@[simp] theorem deliverBytes_d (out : List Byte) (s : State) : (deliverBytes out s).d = s.d := rfl
@[simp] theorem deliverBytes_script (out : List Byte) (s : State) :
    (deliverBytes out s).script = s.script := rfl
@[simp] theorem deliverBytes_readLog (out : List Byte) (s : State) :
    (deliverBytes out s).readLog = s.readLog := rfl
@[simp] theorem deliverBytes_epoch (out : List Byte) (s : State) :
    (deliverBytes out s).epoch = s.epoch := rfl
@[simp] theorem deliverBytes_draws (out : List Byte) (s : State) :
    (deliverBytes out s).draws = s.draws := rfl

/-! ### Host reads (R38, R45) and the illegal-command step (R59) -/

@[simp] theorem hostRead_readLog (a : PortIndex) (s : State) :
    (hostRead a s).readLog = hostReadValue s a :: s.readLog := rfl
@[simp] theorem hostRead_draws (a : PortIndex) (s : State) :
    (hostRead a s).draws = if readUnspecified s a then s.draws + 1 else s.draws := rfl

/-- A host read changes nothing but the host's log and the count of free words. -/
theorem hostRead_eq (a : PortIndex) (s : State) :
    hostRead a s =
      { s with readLog := (hostRead a s).readLog, draws := (hostRead a s).draws } := rfl

@[simp] theorem illegalCommand_status (s : State) :
    (illegalCommand s).status = statusIllegal := rfl
@[simp] theorem illegalCommand_errinfo (s : State) :
    (illegalCommand s).errinfo = errInfoIllegal := rfl

/-- The illegal-command step writes `STATUS` and `ERRINFO` and nothing else. -/
theorem illegalCommand_eq (s : State) :
    illegalCommand s = { s with status := statusIllegal, errinfo := errInfoIllegal } := rfl

/-! ### Reads of cells after updates that leave the buffers alone -/

theorem readBbuf_congr (s t : State) (hb : t.bbuf = s.bbuf) (he : t.epoch = s.epoch) (i : Nat) :
    readBbuf t i = readBbuf s i := by simp [readBbuf, hb, he]

theorem readCbuf_congr (s t : State) (hc : t.cbuf = s.cbuf) (he : t.epoch = s.epoch) (i : Nat) :
    readCbuf t i = readCbuf s i := by simp [readCbuf, hc, he]

@[simp] theorem readBbuf_accept (i : Instr) (s : State) (k : Nat) :
    readBbuf (accept i s) k = readBbuf s k := rfl
@[simp] theorem readCbuf_accept (i : Instr) (s : State) (k : Nat) :
    readCbuf (accept i s) k = readCbuf s k := rfl
@[simp] theorem bytesBelow_accept (i : Instr) (s : State) (n : Nat) :
    bytesBelow (accept i s) n = bytesBelow s n := rfl
@[simp] theorem charsBelow_accept (i : Instr) (s : State) (n : Nat) :
    charsBelow (accept i s) n = charsBelow s n := rfl
@[simp] theorem sourceBytes_accept (i : Instr) (s : State) :
    sourceBytes (accept i s) = sourceBytes s := rfl
@[simp] theorem sourceChars_accept (i : Instr) (s : State) :
    sourceChars (accept i s) = sourceChars s := rfl

@[simp] theorem bytesBelow_length (s : State) (n : Nat) : (bytesBelow s n).length = n := by
  simp [bytesBelow]

@[simp] theorem charsBelow_length (s : State) (n : Nat) : (charsBelow s n).length = n := by
  simp [charsBelow]

@[simp] theorem sourceBytes_length (s : State) : (sourceBytes s).length = s.blen.toNat := by
  simp [sourceBytes]

@[simp] theorem sourceChars_length (s : State) : (sourceChars s).length = s.clen.toNat := by
  simp [sourceChars]

/-- A cell of `BBUF` after one is written (R46). -/
theorem readBbuf_writeBbuf (i : Nat) (v : Byte) (s : State) (j : Nat) :
    readBbuf (writeBbuf i v s) j = if j = i ∧ i < s.cfg.nb then v else readBbuf s j := by
  unfold readBbuf writeBbuf
  simp only [Memory.read_write]
  split_ifs <;> rfl

/-- A cell of `CBUF` after one is written (R46). -/
theorem readCbuf_writeCbuf (i : Nat) (v : Byte) (s : State) (j : Nat) :
    readCbuf (writeCbuf i v s) j = if j = i ∧ i < s.cfg.nc then v else readCbuf s j := by
  unfold readCbuf writeCbuf
  simp only [Memory.read_write]
  split_ifs <;> rfl

end Sys2Proof.Machine
end

