-- ==== Sys2Proof/Laws/Exec.lean ====
section
/-!
SUPPORT. Laws/Exec.lean: what `runCommand` and `exec` can answer, said once: every meaning is its
command's rule, run on the accepted state.
-/

namespace Sys2Proof.Machine

/-- The rule of a command, on the state at its acceptance (R63, R79, R109, R111, R115). -/
def commandBody (i : Instr) (s : State) : State :=
  match i with
  | .b58enc => encodeWith 0 id s
  | .b58dec => deliverOrFail (decodeRaw s.cfg (sourceChars s)) s
  | .b58chkEnc => encodeWith Config.ckLen (fun p => p ++ checksum p) s
  | .b58chkDec => deliverOrFail (checkDecode s.cfg (sourceChars s)) s
  | .b58chkValid => answerValid (checkDecode s.cfg (sourceChars s)) s

/-- A command written while another runs is turned away with none of its effect (R48). -/
theorem exec_of_busy (i : Instr) (s : State) (h : s.status.busy = true) : exec i s = .next s := by
  cases i <;>
    simp [exec, execB58enc, execB58dec, execB58chkEnc, execB58chkDec, execB58chkValid, runCommand, h]

/-- A command of an idle block is its rule, run on the accepted state. -/
theorem exec_of_idle (i : Instr) (s : State) (h : s.status.busy = false) :
    exec i s = .next (commandBody i (accept i s)) := by
  cases i <;>
    simp [exec, execB58enc, execB58dec, execB58chkEnc, execB58chkDec, execB58chkValid, runCommand,
      commandBody, h]

/-- The encoders' rule, where the work sequence fits. -/
theorem encodeWith_of_le (extra : Nat) (work : List Byte → List Byte) (s : State)
    (h : s.blen.toNat + extra ≤ s.cfg.nb) :
    encodeWith extra work s =
      complete (deliverChars (encodeOut s.cfg (work (sourceBytes s))) s) := by
  rw [encodeWith, if_neg (by omega)]

/-- The encoders' rule, where it does not. -/
theorem encodeWith_of_lt (extra : Nat) (work : List Byte → List Byte) (s : State)
    (h : s.cfg.nb < s.blen.toNat + extra) :
    encodeWith extra work s = failWith capacityFailure s := by
  rw [encodeWith, if_pos h]

@[simp] theorem deliverOrFail_ok (out : List Byte) (s : State) :
    deliverOrFail (.ok out) s = complete (deliverBytes out s) := rfl
@[simp] theorem deliverOrFail_error (f : Failure) (s : State) :
    deliverOrFail (.error f) s = failWith f s := rfl
@[simp] theorem answerValid_ok (out : List Byte) (s : State) :
    answerValid (.ok out) s = complete (setValid s) := rfl
@[simp] theorem answerValid_error (f : Failure) (s : State) :
    answerValid (.error f) s = failWith f s := rfl

/-- A host write while a command runs changes nothing (R48). -/
theorem hostWrite_of_busy (a : PortIndex) (v : Word) (s : State) (h : s.status.busy = true) :
    hostWrite a v s = s := by simp [hostWrite, h]

/-- The next event, by the schedule's head. -/
theorem step_nil (s : State) (h : s.script = []) : step s = .next (seqStep s) := by
  simp [step, nextEvent, h]

theorem step_cons (s : State) (l : ScriptLine) (rest : List ScriptLine) (h : s.script = l :: rest) :
    step s = scriptLine l { s with script := rest } := by
  simp [step, nextEvent, h]

end Sys2Proof.Machine
end

