-- ==== Sys2Proof/Laws/PerInstr.lean ====
section
/-!
SUPPORT. Laws/PerInstr.lean: what holds of every command as syntax, one lemma per command.

`OneLegalByte`: the encoding of a command is one byte whose `ZERO` field is 0 and whose `OPC` field
is the command's opcode, one of 1 to 5 (R54, R55).
-/

namespace Sys2Proof.Laws.OneLegalByte

def Statement (i : Instr) : Prop :=
  i.wf = true ∧
    ∃ b, encode i = [b] ∧ (commandFields b).wf ∧ (commandFields b).opc = opcodeOf i

theorem b58enc : Statement .b58enc := ⟨rfl, _, rfl, by decide, by decide⟩

theorem b58dec : Statement .b58dec := ⟨rfl, _, rfl, by decide, by decide⟩

theorem b58chkEnc : Statement .b58chkEnc := ⟨rfl, _, rfl, by decide, by decide⟩

theorem b58chkDec : Statement .b58chkDec := ⟨rfl, _, rfl, by decide, by decide⟩

theorem b58chkValid : Statement .b58chkValid := ⟨rfl, _, rfl, by decide, by decide⟩

end Sys2Proof.Laws.OneLegalByte
end

