-- ==== Sys2Proof/Laws/Sequencer.lean ====
section
/-!
SUPPORT. Laws/Sequencer.lean: what no sequencer step touches, and how steps follow one another.
-/

namespace Sys2Proof.Machine

/-- In `IDLE` no sequencer step is enabled (R24). -/
theorem seqStep_idle (s : State) (h : s.ph = .idle) : seqStep s = s := by simp [seqStep, h]

/-- No sequencer step touches the parameters, the schedule, the host's log or the counters. -/
theorem seqStep_outside (s : State) : SameOutside s (seqStep s) := by
  unfold SameOutside seqStep
  split <;>
    simp only [encInitStep, encCopyStep, encZerosStep, encNextStep, encDivStep, encSkipStep,
      encEmitStep, decInitStep, decScanStep, decZerosStep, decNextStep, decMulStep, decFitStep,
      decPadStep, decCommitStep, csInitStep, csH1Step, csH2Step, csAppendStep, chkLenStep,
      chkCmpStep, writeCbuf, writeBbuf] <;>
    first
    | exact ⟨trivial, trivial, trivial, trivial, trivial⟩
    | repeat (first | exact ⟨rfl, rfl, rfl, rfl, rfl⟩ | split)

@[simp] theorem seqStep_cfg (s : State) : (seqStep s).cfg = s.cfg := (seqStep_outside s).1
@[simp] theorem seqStep_script (s : State) : (seqStep s).script = s.script := (seqStep_outside s).2.1
@[simp] theorem seqStep_readLog (s : State) : (seqStep s).readLog = s.readLog :=
  (seqStep_outside s).2.2.1
@[simp] theorem seqStep_epoch (s : State) : (seqStep s).epoch = s.epoch := (seqStep_outside s).2.2.2.1
@[simp] theorem seqStep_draws (s : State) : (seqStep s).draws = s.draws := (seqStep_outside s).2.2.2.2

@[simp] theorem seqIter_zero (s : State) : seqIter 0 s = s := rfl

theorem seqIter_succ (n : Nat) (s : State) : seqIter (n + 1) s = seqIter n (seqStep s) := rfl

/-- Runs of sequencer steps chain. -/
theorem seqIter_add (m n : Nat) (s : State) : seqIter (m + n) s = seqIter n (seqIter m s) := by
  induction m generalizing s with
  | zero => simp
  | succ m ih => rw [Nat.succ_add, seqIter_succ, seqIter_succ, ih]

/-- A run of sequencer steps touches none of the host's side. -/
theorem seqIter_outside (n : Nat) (s : State) : SameOutside s (seqIter n s) := by
  induction n generalizing s with
  | zero => exact ⟨rfl, rfl, rfl, rfl, rfl⟩
  | succ n ih =>
    obtain ⟨a, b, c, d, e⟩ := ih (seqStep s)
    exact ⟨a.trans (seqStep_cfg s), b.trans (seqStep_script s), c.trans (seqStep_readLog s),
      d.trans (seqStep_epoch s), e.trans (seqStep_draws s)⟩

end Sys2Proof.Machine
end

