-- ==== Sys2Proof/Tests/Slice0.lean ====
section
/-!
SUPPORT. Tests/Slice0.lean: small tests, and for every statement with hypotheses a concrete state that
meets them. The expected values of the tests are the spec's: the command words of R55, the examples
and vectors of 95_test_vectors.md, the traces P4a and P4b, the check values of R107 to R112.
-/

namespace Sys2Proof.Tests

open Sys2Proof Sys2Proof.Machine

/-! ### The checks of WellFormed refuse -/

/-- A small block, for the tests. -/
def tiny : Config := { nb := 8, nc := 12, alpha := bitcoinAlphabet }

theorem test_config_wf : tiny.wf ∧ defaultConfig.wf := by decide
theorem test_nb_below_range : ¬ { tiny with nb := 3 }.wf := by decide
theorem test_nb_above_range : ¬ { tiny with nb := 2731, nc := 4096 }.wf := by decide
theorem test_nc_below_range : ¬ { tiny with nc := 11 }.wf := by decide
theorem test_nc_above_range : ¬ { tiny with nc := 4097 }.wf := by decide
theorem test_alpha_too_short : ¬ { tiny with alpha := bitcoinAlphabet.drop 1 }.wf := by decide
theorem test_alpha_repeats : ¬ { tiny with alpha := 0x32 :: bitcoinAlphabet.drop 1 }.wf := by decide
theorem test_command_zero_field : ¬ ({ zero := 1, opc := 1 } : CommandWord).wf := by decide
theorem test_command_opcode_low : ¬ ({ zero := 0, opc := 0 } : CommandWord).wf := by decide
theorem test_command_opcode_high : ¬ ({ zero := 0, opc := 6 } : CommandWord).wf := by decide

/-! ### Decoding (R55, R58) -/

theorem test_decode_b58enc : decodeCommand 0b00000001 = .ok .b58enc := by decide
theorem test_decode_b58dec : decodeCommand 0b00000010 = .ok .b58dec := by decide
theorem test_decode_b58chkEnc : decodeCommand 0b00000011 = .ok .b58chkEnc := by decide
theorem test_decode_b58chkDec : decodeCommand 0b00000100 = .ok .b58chkDec := by decide
theorem test_decode_b58chkValid : decodeCommand 0b00000101 = .ok .b58chkValid := by decide
theorem test_decode_00 : decodeCommand 0x00 = .error (.undefinedOpcode 0) := by decide
theorem test_decode_06 : decodeCommand 0x06 = .error (.undefinedOpcode 6) := by decide
theorem test_decode_07 : decodeCommand 0x07 = .error (.undefinedOpcode 7) := by decide
theorem test_decode_09 : decodeCommand 0x09 = .error (.zeroFieldNotZero 1) := by decide
theorem test_decode_81 : decodeCommand 0x81 = .error (.zeroFieldNotZero 16) := by decide
theorem test_decode_empty : decode [] = .error .truncated := by decide
theorem test_table_word : decodeTableWord 8 0x03 = some .b58chkEnc ∧ decodeTableWord 8 0x83 = none := by
  decide
/-- Bits 31:8 of the word written to `CMD` are ignored (program P3, line 20). -/
theorem test_port_word_101 : decodeCommand (commandOfPortWord 0x101) = .ok .b58enc := by decide
theorem test_alias : instrOfName "b58check_encode" = some .b58chkEnc ∧
    instrOfName "B58CHK_VALID" = some .b58chkValid := by decide +kernel

/-! ### The commands -/

/-- An idle block whose buffers hold the given bytes and characters. -/
def holding (bs cs : List Byte) : State :=
  { State.resetOf tiny with
    bbuf := Memory.writeAll 8 [] 0 bs
    blen := BitVec.ofNat 16 bs.length
    cbuf := Memory.writeAll 12 [] 0 cs
    clen := BitVec.ofNat 16 cs.length }

/-- What the host reads after a step: both words of the report, and the two sequences. -/
def report (o : Host.Outcome State Fault Refusal) : Option (Word × Word × List Byte × List Byte) :=
  match o with
  | .next t => some (statusWord t.status, errInfoWord t.errinfo, sourceBytes t, sourceChars t)
  | .fault _ => none
  | .refused _ => none

/-- V-E16. -/
theorem test_b58enc : report (exec .b58enc (holding [0, 0, 0x61, 0x62, 0x63] [])) =
    some (0x02, 0, [0, 0, 0x61, 0x62, 0x63], [0x31, 0x31, 0x5A, 0x69, 0x43, 0x61]) := by
  decide +kernel

/-- V-E19, at a capacity of 8: the source length is left, the destination length is 0. -/
theorem test_b58enc_capacity :
    (report (exec .b58enc { holding [] [0x31] with blen := 9 })).map (fun r => (r.1, r.2.1, r.2.2.2)) =
    some (0x52, 0x05000000, []) := by
  decide +kernel

/-- V-D16. -/
theorem test_b58dec : report (exec .b58dec (holding [] [0x31, 0x31, 0x5A, 0x69, 0x43, 0x61])) =
    some (0x02, 0, [0, 0, 0x61, 0x62, 0x63], [0x31, 0x31, 0x5A, 0x69, 0x43, 0x61]) := by
  decide +kernel

/-- V-D20. -/
theorem test_b58dec_invalid : report (exec .b58dec (holding [0x55] [0x31, 0x4F, 0x30, 0x6C])) =
    some (0x22, 0x024F0001, [], [0x31, 0x4F, 0x30, 0x6C]) := by
  decide +kernel

/-- R109 corner case (a). -/
theorem test_b58chkEnc_empty : report (exec .b58chkEnc (holding [] [])) =
    some (0x02, 0, [], [0x33, 0x51, 0x4A, 0x6D, 0x6E, 0x68]) := by
  decide +kernel

/-- R125 (a): `BLEN.LEN + 4 > NB`. -/
theorem test_b58chkEnc_capacity : report (exec .b58chkEnc (holding [1, 2, 3, 4, 5] [0x31])) =
    some (0x52, 0x05000000, [1, 2, 3, 4, 5], []) := by
  decide +kernel

/-- R112 (a): an empty payload is a success. -/
theorem test_b58chkDec_empty :
    report (exec .b58chkDec (holding [7] [0x33, 0x51, 0x4A, 0x6D, 0x6E, 0x68])) =
    some (0x02, 0, [], [0x33, 0x51, 0x4A, 0x6D, 0x6E, 0x68]) := by
  decide +kernel

/-- R112 (c): `1111`. -/
theorem test_b58chkDec_mismatch : report (exec .b58chkDec (holding [7] [0x31, 0x31, 0x31, 0x31])) =
    some (0x42, 0x04000000, [], [0x31, 0x31, 0x31, 0x31]) := by
  decide +kernel

/-- R115 (b): `3QJmnh`; `BBUF` and `BLEN` are left. -/
theorem test_b58chkValid_true :
    report (exec .b58chkValid (holding [7] [0x33, 0x51, 0x4A, 0x6D, 0x6E, 0x68])) =
    some (0x06, 0, [7], [0x33, 0x51, 0x4A, 0x6D, 0x6E, 0x68]) := by
  decide +kernel

/-- R112 (b): `zzz`, three bytes. -/
theorem test_b58chkValid_short : report (exec .b58chkValid (holding [7] [0x7A, 0x7A, 0x7A])) =
    some (0x02, 0x03000003, [7], [0x7A, 0x7A, 0x7A]) := by
  decide +kernel

/-- R109: the checksum of the empty payload. -/
theorem test_checksum_empty : checksum [] = [0x5D, 0xF6, 0xE0, 0xE2] := by decide +kernel

/-! ### The sequencer and the port -/

/-- A block in a phase of a running command. -/
def running (op : Code) (ph : Phase) : State :=
  { holding [0x39, 1, 2, 3] [0x31, 0x31, 0x5A, 0x69] with op := op, ph := ph, status := statusRunning }

/-- P4a, step 8: `ACC` = 256, `W[1]` = 4, `REM` = 24. -/
theorem test_encDiv :
    let s := running 1 .encDiv
    let t := seqStep { s with dp := { s.dp with n := 2, j := 1, rem := 1 } }
    (readW t 1, t.dp.rem, t.dp.j, t.ph) = (4, 24, 2, .encDiv) := by decide +kernel

/-- P4b, step 9, at a capacity of 8: `ACC` = 256, the byte becomes 0, `CARRY` = 1. -/
theorem test_decMul :
    let s := running 2 .decMul
    let t := seqStep { s with w := s.w.set 7 4, dp := { s.dp with wl := 1, j := 0, carry := 24 } }
    (readW t 7, t.dp.carry, t.dp.j, t.ph) = (0, 1, 1, .decMul) := by decide +kernel

/-- P3, lines 16 and 17: an illegal command word is reported at once. -/
theorem test_illegal_command :
    let t := hostWrite 0 0x07 (holding [] [])
    (hostReadValue t 1, hostReadValue t 2) = (0x62, 0x06000000) := by decide +kernel

/-- P3, line 2: `CAP` at the default parameters. -/
theorem test_cap : hostReadValue State.reset 5 = 0x00C00080 := by decide +kernel

/-- V-E1 from reset: the placed word runs, and the wait that `RUN` ends with is next. -/
theorem test_first_command_after_reset :
    (match step (State.reset.withFetchWord 8 0x01) with
      | .next t => some (statusWord t.status, t.clen, t.script)
      | .fault _ => none
      | .refused _ => none) = some (0x02, 0, [.wait]) := by decide +kernel

/-! ### States that meet the hypotheses of the statements -/

/-- A sound state, from its decidable parts. -/
theorem inv_of_parts (s : State) (hp : phaseFits s.ph s.op s.dp.ret)
    (h : s.cfg.wf ∧ Memory.wf s.cfg.nb s.bbuf ∧ Memory.wf s.cfg.nc s.cbuf ∧
      s.w.length = s.cfg.nb ∧ s.d.length = s.cfg.nc ∧ (∀ x ∈ s.d, x.toNat ≤ 57) ∧
      s.dp.rem.toNat ≤ 57 ∧ s.dp.carry.toNat ≤ 57 ∧ s.sha.dg1.length = 32 ∧ s.sha.ck.length = 4 ∧
      (s.ph = .idle ↔ s.status.busy = false) ∧
      (s.status.busy = true → s.status = statusRunning ∧ s.errinfo = errInfoClear) ∧
      ((s.status.err ≠ 1 ∧ s.status.err ≠ 7) ∧ s.errinfo.cause ≠ 1 ∧ s.errinfo.cause ≠ 7) ∧
      (s.status.valid = true → s.status.err = 0 ∧ s.errinfo = errInfoClear)) : Inv s := by
  obtain ⟨a, b, c, d, e, f, g, i, j, k, l, m, n, o⟩ := h
  exact ⟨a, b, c, d, e, f, g, i, j, k, l, m, hp, n, o⟩

/-- An idle block with bytes, characters and a schedule. -/
def idle (ls : List ScriptLine) : State := { holding [0x39, 1, 2, 3] [0x31, 0x5A] with script := ls }

theorem idle_inv (ls : List ScriptLine) : Inv (idle ls) := by
  have h : Inv (idle []) := inv_of_parts _ trivial (by decide +kernel)
  exact ⟨h.config, h.bbufCells, h.cbufCells, h.workCells, h.digitCells, h.digitRange, h.remRange,
    h.carryRange, h.digestCells, h.checksumCells, h.idleIff, h.runningClear, h.phaseOp, h.codes,
    h.validClear⟩

theorem running_encInit_inv : Inv (running 1 .encInit) :=
  inv_of_parts _ (.inl rfl) (by decide +kernel)

/-- The states `holding` builds meet the hypotheses of the result statements that do not speak of
the source. -/
theorem holding_ready (bs cs : List Byte) :
    (holding bs cs).cfg.wf ∧ Idle (holding bs cs) ∧ (holding bs cs).cfg = tiny :=
  ⟨show tiny.wf by decide, rfl, rfl⟩

theorem witness_OpcodeMapMatchesTheWholeWord :
    ¬ (1 ≤ (0x00 : Byte).toNat ∧ (0x00 : Byte).toNat ≤ 5) ∧
    ¬ (1 ≤ (0x06 : Byte).toNat ∧ (0x06 : Byte).toNat ≤ 5) ∧
    ¬ (1 ≤ (0xFF : Byte).toNat ∧ (0xFF : Byte).toNat ≤ 5) := by decide

theorem witness_DecodeAndEncodeAgree :
    Instr.b58chkValid.wf = true ∧ decode [0x05, 0x41] = .ok (.b58chkValid, [0x41]) := by decide

theorem witness_AcceptanceStartsTheCommand :
    Idle (idle []) ∧
    (1 ≤ ((0xFFFFFF01 : Word).extractLsb' 0 8).toNat ∧ ((0xFFFFFF01 : Word).extractLsb' 0 8).toNat ≤ 5) ∧
    (1 ≤ ((0x05 : Word).extractLsb' 0 8).toNat ∧ ((0x05 : Word).extractLsb' 0 8).toNat ≤ 5) := by decide

theorem witness_IllegalCommandWordIsReported :
    Idle (idle []) ∧
    ¬ (1 ≤ ((0x500 : Word).extractLsb' 0 8).toNat ∧ ((0x500 : Word).extractLsb' 0 8).toNat ≤ 5) ∧
    ¬ (1 ≤ ((0x06 : Word).extractLsb' 0 8).toNat ∧ ((0x06 : Word).extractLsb' 0 8).toNat ≤ 5) := by
  decide

theorem witness_RegisterWordLayouts : (idle []).cfg.wf ∧ (running 1 .encInit).cfg.wf := by decide

/-- The map at the borders of its ranges, for a block of 8 bytes and 12 characters: no index falls
under two clauses. -/
theorem witness_IdlePortAccesses :
    (idle []).cfg.wf ∧ Idle (idle []) ∧
    [5, 6, 0xFFF, 0x1000, 0x1007, 0x1008, 0x1FFF, 0x2000, 0x200B, 0x200C, 0x3FFF].map
      (portSlot (idle []).cfg) =
    [.cap, .reserved, .reserved, .bbuf 0, .bbuf 7, .reserved, .reserved, .cbuf 0, .cbuf 11,
      .reserved, .reserved] := by decide

theorem witness_BusyWritesAreIgnored : (running 1 .encInit).status.busy = true := by decide

theorem witness_BusyReads :
    Inv (running 1 .encInit) ∧ (running 1 .encInit).status.busy = true ∧
    ([3, 4, 0x1000, 0x1007, 0x2000, 0x200B].all (readUnspecified (running 1 .encInit))) = true ∧
    ([0, 1, 2, 5, 6, 0xFFF, 0x1008, 0x200C].any (readUnspecified (running 1 .encInit))) = false :=
  ⟨running_encInit_inv, by decide, by decide, by decide⟩

theorem witness_DataWritesAreIdempotent : (1 : PortIndex) ≠ 0 ∧ (0x3FFF : PortIndex) ≠ 0 := by decide

theorem witness_StepRunsTheDecodedCommand :
    (idle [.run 0x02, .wait]).script = .run 0x02 :: [.wait] ∧ Idle (idle [.run 0x02, .wait]) ∧
    decodeCommand (commandOfPortWord 0x02) = .ok .b58dec := by decide

theorem witness_StepTakesTheOtherLines :
    (idle []).script = [] ∧ (idle [.sequencer]).script = [.sequencer] ∧
    (idle [.access (.read 1)]).script = [.access (.read 1)] ∧
    ((idle [.wait]).script = [.wait] ∧ (idle [.wait]).status.done = false) ∧
    (let s := { idle [.wait] with status := statusCompleted statusRunning }
     s.script = [.wait] ∧ s.status.done = true) ∧
    (let s := { running 1 .encInit with script := [.run 1] }
     s.script = [.run 1] ∧ s.status.busy = true) ∧
    ((idle [.run 6]).script = [.run 6] ∧ Idle (idle [.run 6]) ∧
      decodeCommand (commandOfPortWord 6) = .error (.undefinedOpcode 6)) ∧
    (idle [.rst none, .wait]).script = .rst none :: [.wait] := by decide

theorem witness_B58encResult :
    (idle []).cfg.wf ∧ Idle { idle [] with blen := 8 } ∧
    ({ idle [] with blen := 8 }.blen.toNat ≤ (idle []).cfg.nb) ∧
    ((idle []).cfg.nb < { idle [] with blen := 9 }.blen.toNat) := by decide

/-- With `holding_ready`. -/
theorem witness_B58decResult :
    decodeRaw tiny (sourceChars (holding [] [0x31, 0x32])) = .ok [0, 1] ∧
    decodeRaw tiny (sourceChars (holding [] [0x32, 0x30])) =
      .error { cause := .invalidCharacter, pos := 1, char := 0x30 } ∧
    decodeRaw tiny (sourceChars (holding [] (List.replicate 8 0x31))) = .ok (List.replicate 8 0) ∧
    decodeRaw tiny (sourceChars (holding [] (List.replicate 9 0x31))) =
      .error { cause := .capacityExceeded, pos := 0, char := 0 } := by decide +kernel

theorem witness_B58chkEncResult :
    (idle []).cfg.wf ∧ Idle { idle [] with blen := 4 } ∧
    ({ idle [] with blen := 4 }.blen.toNat + 4 ≤ (idle []).cfg.nb) ∧
    ((idle []).cfg.nb < { idle [] with blen := 5 }.blen.toNat + 4) := by decide

/-- The branches of R111: a failing decode, three bytes, a mismatch in four, a match; with
`holding_ready`. The same states are the witnesses of the validator's statement. -/
theorem witness_B58chkDecResult :
    decodeRaw tiny (sourceChars (holding [] [0x30])) =
      .error { cause := .invalidCharacter, pos := 0, char := 0x30 } ∧
    decodeRaw tiny (sourceChars (holding [] [0x31, 0x31, 0x31])) = .ok [0, 0, 0] ∧
    (decodeRaw tiny (sourceChars (holding [] [0x31, 0x31, 0x31, 0x31])) = .ok [0, 0, 0, 0] ∧
      [0, 0, 0, 0].drop 0 ≠ checksum ([0, 0, 0, 0].take 0)) ∧
    decodeRaw tiny (sourceChars (holding [] [0x33, 0x51, 0x4A, 0x6D, 0x6E, 0x68])) =
      .ok [0x5D, 0xF6, 0xE0, 0xE2] ∧
    [0x5D, 0xF6, 0xE0, 0xE2].drop 0 = checksum ([0x5D, 0xF6, 0xE0, 0xE2].take 0) := by decide +kernel

theorem witness_B58chkValidResult :
    Idle (holding [] [0x30]) ∧ Idle (holding [] [0x31, 0x31, 0x31]) ∧
    Idle (holding [] [0x31, 0x31, 0x31, 0x31]) ∧
    Idle (holding [] [0x33, 0x51, 0x4A, 0x6D, 0x6E, 0x68]) := by decide

/-- `decode_raw`: a sequence of 13 characters for 12 cells, a first offender at 1, and a sequence of
digits whose bytes fit exactly and by one byte not. -/
theorem witness_DecodeRawTestsInOrder :
    tiny.nc < (List.replicate 13 (0x31 : Byte)).length ∧
    (([0x31, 0x30] : List Byte).length ≤ tiny.nc ∧
      alphaIndex tiny (([0x31, 0x30] : List Byte).getD 1 0) = none ∧
      ∀ i, i < 1 → alphaIndex tiny (([0x31, 0x30] : List Byte).getD i 0) ≠ none) ∧
    (List.replicate 8 (0x31 : Byte)).map (alphaIndex tiny) = (List.replicate 8 0).map some ∧
    8 + (nat2be (digits2nat ((List.replicate 8 0).drop 8))).length ≤ tiny.nb ∧
    (List.replicate 8 (0x31 : Byte) ++ [0x32]).map (alphaIndex tiny) =
      (List.replicate 8 0 ++ [1]).map some ∧
    tiny.nb < 8 + (nat2be (digits2nat ((List.replicate 8 0 ++ [1]).drop 8))).length := by decide +kernel

theorem witness_ByteNumberFunctions : nzeros [0, 1] < ([0, 1] : List Byte).length ∧ 0 < 58 := by decide

theorem witness_DigitNumberFunctions : tiny.wf ∧ alphaIndex tiny 0x7A = some 57 ∧ 0 < 256 := by decide

theorem witness_EncoderOutputFits : tiny.wf ∧ (List.replicate 8 (0xFF : Byte)).length ≤ tiny.nb := by
  decide

theorem witness_DecoderOutputBound :
    (∀ x ∈ ([0, 57] : List Nat), x < 58) ∧ tiny.wf ∧ tiny.nb < tiny.nc := by decide

theorem witness_CodecRoundTrip :
    tiny.wf ∧ (List.replicate 8 (0xFF : Byte)).length ≤ tiny.nb ∧
    decodeRaw tiny [0x31, 0x32] = .ok [0, 1] := by decide +kernel

theorem witness_EncoderCornerCases :
    tiny.wf ∧ nzeros [0, 0, 0x61] < ([0, 0, 0x61] : List Byte).length := by decide

/-- A block whose two running remainders hold the largest digit. -/
def fullRemainders : State :=
  let s := running 1 .encDiv
  { s with dp := { s.dp with rem := 57, carry := 57 } }

theorem witness_AccumulatorBounds :
    fullRemainders.dp.rem.toNat ≤ 57 ∧ fullRemainders.dp.carry.toNat ≤ 57 := by decide

/-- A division pass of 2 bytes, at its first byte. -/
def dividing : State :=
  let s := running 1 .encDiv
  { s with w := [0, 0, 0x61, 0x62, 0, 0, 0, 0], dp := { s.dp with n := 4, j := 2, start := 2 } }

theorem witness_DivisionPassDivides :
    dividing.ph = .encDiv ∧ dividing.dp.rem.toNat ≤ 57 ∧ dividing.dp.j.toNat ≤ dividing.dp.n.toNat ∧
    dividing.dp.n.toNat ≤ dividing.w.length := by decide

/-- The head of the encoder's loop, with a number of 2 bytes. -/
def encodingLoop : State := { dividing with ph := .encNext }

theorem witness_EncoderTripDividesByFiftyEight :
    Inv encodingLoop ∧ encodingLoop.ph = .encNext ∧
    encodingLoop.dp.start.toNat < encodingLoop.dp.n.toNat ∧
    encodingLoop.dp.n.toNat ≤ encodingLoop.cfg.nb ∧ encodingLoop.dp.dl.toNat < encodingLoop.cfg.nc ∧
    ∀ i, i < encodingLoop.dp.start.toNat → readW encodingLoop i = 0 :=
  ⟨inv_of_parts _ (.inl rfl) (by decide +kernel), by decide, by decide, by decide, by decide, by decide⟩

/-- A multiply pass over a number that fills `W`, at its first byte. -/
def multiplying : State :=
  let s := running 2 .decMul
  { s with w := List.replicate 8 0xFF, dp := { s.dp with wl := 8, carry := 57 } }

theorem witness_MultiplyPassMultiplies :
    multiplying.ph = .decMul ∧ multiplying.dp.carry.toNat ≤ 57 ∧
    multiplying.dp.j.toNat ≤ multiplying.dp.wl.toNat ∧
    multiplying.dp.wl.toNat ≤ multiplying.cfg.nb ∧ multiplying.w.length = multiplying.cfg.nb := by decide

/-- The head of the decoder's loop, with a number that fills `W` (its next trip fails). -/
def decodingLoop : State := { multiplying with ph := .decNext, dp := { multiplying.dp with m := 1 } }

/-- The head of the decoder's loop, with the number 0 (its next trip does not fail). -/
def decodingLoopStart : State := { decodingLoop with dp := { decodingLoop.dp with wl := 0 } }

theorem witness_DecoderTripAccumulatesADigit :
    (Inv decodingLoop ∧ decodingLoop.ph = .decNext ∧
      decodingLoop.dp.i.toNat < decodingLoop.dp.m.toNat ∧
      decodingLoop.dp.m.toNat ≤ decodingLoop.cfg.nc ∧
      decodingLoop.dp.wl.toNat ≤ decodingLoop.cfg.nb ∧
      readW decodingLoop (decodingLoop.cfg.nb - decodingLoop.dp.wl.toNat) ≠ 0 ∧
      256 ^ decodingLoop.cfg.nb ≤
        be2nat (decodingLoop.w.drop (decodingLoop.cfg.nb - decodingLoop.dp.wl.toNat)) * 58 +
          (readD decodingLoop decodingLoop.dp.i.toNat).toNat) ∧
    (Inv decodingLoopStart ∧ decodingLoopStart.ph = .decNext ∧
      decodingLoopStart.dp.i.toNat < decodingLoopStart.dp.m.toNat ∧
      decodingLoopStart.dp.wl.toNat = 0 ∧
      be2nat (decodingLoopStart.w.drop (decodingLoopStart.cfg.nb - decodingLoopStart.dp.wl.toNat)) * 58 +
          (readD decodingLoopStart decodingLoopStart.dp.i.toNat).toNat <
        256 ^ decodingLoopStart.cfg.nb) :=
  ⟨⟨inv_of_parts _ (.inl rfl) (by decide +kernel), by decide, by decide, by decide, by decide,
      by decide, by decide +kernel⟩,
    inv_of_parts _ (.inl rfl) (by decide +kernel), by decide, by decide, by decide, by decide +kernel⟩

theorem witness_ZerosPhaseCountsLeadingZeros :
    let s := { dividing with ph := .encZeros }
    s.ph = .encZeros ∧ s.dp.i = 0 ∧ s.dp.n.toNat ≤ s.w.length := by decide

theorem witness_PaddingLayout :
    8 * ([0x61, 0x62, 0x63] : List Byte).length < 2 ^ 64 ∧
    (([0x61, 0x62, 0x63] : List Byte).length < 55 ∧ 55 < 64 * ((3 + 8) / 64 + 1) - 8) := by decide

theorem witness_DigestHashIsOneBlock : (List.replicate 32 (0 : Byte)).length = 32 := by decide

/-- The checksum unit at its start, on a message of 3 bytes. -/
def hashing : State :=
  let s := running 3 .csInit
  { s with w := [0x61, 0x62, 0x63, 0, 0, 0, 0, 0], dp := { s.dp with ml := 3, ret := .csAppend } }

theorem witness_ChecksumUnitComputesTheChecksum :
    hashing.ph = .csInit ∧ hashing.dp.ml.toNat ≤ 2730 ∧
    hashing.dp.mb.toNat + hashing.dp.ml.toNat ≤ hashing.w.length := by decide

/-- A failing command leaves an outcome with a cause. -/
theorem witness_FailCompletion :
    Idle { idle [] with blen := 9 } ∧
    ∃ t, exec .b58enc { idle [] with blen := 9 } = .next t ∧ t.errinfo.cause ≠ 0 :=
  ⟨by decide, _, rfl, by decide +kernel⟩

theorem witness_OkCompletion :
    ((running 1 .encEmit).ph = .encEmit ∧
      (running 1 .encEmit).dp.nz.toNat + (running 1 .encEmit).dp.dl.toNat ≤
        (running 1 .encEmit).dp.k.toNat) ∧
    ((running 4 .decCommit).ph = .decCommit ∧
      (running 4 .decCommit).dp.outl.toNat ≤ (running 4 .decCommit).dp.k.toNat) ∧
    ((running 5 .chkCmp).ph = .chkCmp ∧ (running 5 .chkCmp).op = 5 ∧
      ∀ k, k < 4 → (running 5 .chkCmp).sha.ck.getD k 0 = readW (running 5 .chkCmp) (8 - 4 + k)) := by
  decide

theorem witness_ResetPeriod :
    (idle [.rst (some (.read 1))]).script = .rst (some (.read 1)) :: [] ∧
    (idle [.rst (some (.write 0 1)), .wait]).script = .rst (some (.write 0 1)) :: [.wait] ∧
    (idle [.rst none]).script = .rst none :: [] := by decide

theorem witness_EveryStepKeepsSoundState :
    ∃ t, Inv (idle [.run 0x03]) ∧ step (idle [.run 0x03]) = .next t := ⟨_, idle_inv _, rfl⟩

theorem witness_PhaseGraph : Inv (running 1 .encInit) := running_encInit_inv

theorem witness_SequencerNeverWritesItsSource :
    (Inv (running 1 .encEmit) ∧ (running 1 .encEmit).status.busy = true) ∧
    (Inv (running 3 .encEmit) ∧ (running 3 .encEmit).status.busy = true) ∧
    (Inv (running 2 .decCommit) ∧ (running 2 .decCommit).status.busy = true) ∧
    (Inv (running 4 .decCommit) ∧ (running 4 .decCommit).status.busy = true) ∧
    (Inv (running 5 .chkCmp) ∧ (running 5 .chkCmp).status.busy = true) :=
  ⟨⟨inv_of_parts _ (.inl rfl) (by decide +kernel), rfl⟩,
    ⟨inv_of_parts _ (.inr rfl) (by decide +kernel), rfl⟩,
    ⟨inv_of_parts _ (.inl rfl) (by decide +kernel), rfl⟩,
    ⟨inv_of_parts _ (.inr rfl) (by decide +kernel), rfl⟩,
    inv_of_parts _ (.inr rfl) (by decide +kernel), rfl⟩

/-- A step that completes a command, and one that does not. -/
theorem witness_CompletionComesLast :
    (Inv (running 1 .encEmit) ∧ (running 1 .encEmit).status.busy = true ∧
      (seqStep (running 1 .encEmit)).status.busy = false) ∧
    (Inv (running 1 .encInit) ∧ (running 1 .encInit).status.busy = true ∧
      (seqStep (running 1 .encInit)).status.busy = true) :=
  ⟨⟨inv_of_parts _ (.inl rfl) (by decide +kernel), rfl, by decide⟩, running_encInit_inv, rfl, by decide⟩

theorem witness_BusyWritesDoNotDisturb :
    let ls := [ScriptLine.access (.write 0x2000 0x30), .sequencer]
    (∀ l ∈ ls, isWriteOrTurn l = true) ∧
    ∀ p, p <+: ls → (p.foldl applyLine (running 1 .encInit)).status.busy = true := by
  refine ⟨by decide, fun p hp => ?_⟩
  rw [← List.mem_inits] at hp
  revert p
  decide

/-- A schedule whose next line is another write, and the empty schedule. -/
theorem witness_ErrorReportStays :
    ∀ ls, ls = [.access (.write 3 1)] ∨ ls = [] →
      Inv (idle ls) ∧ Idle (idle ls) ∧
      (∀ v rest, (idle ls).script ≠ .access (.write 0 v) :: rest) ∧
      (∀ v rest, (idle ls).script ≠ .run v :: rest) ∧
      (∀ x rest, (idle ls).script ≠ .rst x :: rest) ∧
      ∃ t, step (idle ls) = .next t := by
  rintro ls (rfl | rfl) <;>
    exact ⟨idle_inv _, rfl, by simp [idle], by simp [idle], by simp [idle], _, rfl⟩

/-- Two blocks with the same sources and other contents elsewhere. -/
theorem witness_ResultDependsOnlyOnTheSource :
    let s := holding [1, 2] [0x31, 0x5A]
    let t := { s with w := List.replicate 8 9, bbuf := Memory.write 8 s.bbuf 5 7,
                      cbuf := Memory.write 12 s.cbuf 9 7, errinfo := errInfoIllegal }
    s.cfg.wf ∧ t.cfg = s.cfg ∧ Idle s ∧ Idle t ∧ (s.blen = t.blen ∧ s.clen = t.clen) ∧
    (∀ k, k < s.blen.toNat → readBbuf s k = readBbuf t k) ∧
    ∀ k, k < s.clen.toNat → readCbuf s k = readCbuf t k := by decide +kernel

theorem witness_ValidatorAgreesWithDecoder :
    Idle (idle []) ∧ Inv (running 5 .decInit) ∧ (running 5 .decInit).op = 5 ∧
    (running 5 .decInit).ph ≠ .chkCmp ∧ (seqStep (running 5 .decInit)).status.busy = true :=
  ⟨rfl, inv_of_parts _ (.inr (.inr rfl)) (by decide +kernel), rfl, by decide, by decide⟩

theorem witness_ValidatorNeverRaises : Idle (idle []) := rfl

theorem witness_OnlyTheValidatorSwallows :
    ∃ t u, Idle (idle []) ∧ exec .b58enc (idle []) = .next t ∧ exec .b58chkValid (idle []) = .next u :=
  ⟨_, _, rfl, rfl, rfl⟩

/-- The order of the tests: a string with a bad character and too many characters is `CapacityExceeded`
in its first 13 characters, `InvalidCharacter` in its first 12. -/
theorem witness_FirstFailingTestDecides :
    Idle (holding [] [0x30]) ∧
    decodeRaw tiny (List.replicate 13 0x30) = .error { cause := .capacityExceeded, pos := 0, char := 0 } ∧
    decodeRaw tiny (List.replicate 12 0x30) =
      .error { cause := .invalidCharacter, pos := 0, char := 0x30 } := by decide +kernel

theorem witness_ChecksumRoundTrip :
    (idle []).cfg.wf ∧ Idle (idle []) ∧ (idle []).blen.toNat + 4 ≤ (idle []).cfg.nb := by decide

theorem witness_LoadLinesFillTheBuffers :
    (let vs := List.replicate 8 (0xAB : Byte)
     let s := idle (loadB vs ++ [.wait])
     s.cfg.wf ∧ Idle s ∧ vs.length ≤ s.cfg.nb ∧ s.script = loadB vs ++ [.wait]) ∧
    (let vs := List.replicate 12 (0x31 : Byte)
     let s := idle (loadC vs ++ [])
     vs.length ≤ s.cfg.nc ∧ s.script = loadC vs ++ []) := by decide

theorem witness_sequencer_statements : Inv (idle []) ∧ Idle (idle []) := ⟨idle_inv [], rfl⟩

theorem witness_AcceptedCommandCompletes :
    Inv (idle []) ∧ Idle (idle []) ∧
    (1 ≤ ((0xA5A5A505 : Word).extractLsb' 0 8).toNat ∧ ((0xA5A5A505 : Word).extractLsb' 0 8).toNat ≤ 5) :=
  ⟨idle_inv [], rfl, by decide⟩

theorem witness_CommandsLeaveTheRest :
    (∃ t, exec .b58dec (idle []) = .next t) ∧ ∃ t, exec .b58dec (running 1 .encInit) = .next t :=
  ⟨⟨_, rfl⟩, _, rfl⟩

end Sys2Proof.Tests
end

section
/-!
PROOFS. The number functions of R11 and R12: leading zeros, big-endian values, digits, and the
alphabet's index. Settles O22 and O23.
-/

namespace Sys2Proof.Machine

/-! ### Leading zero bytes (R11) -/

/-- The run of leading zeros ends at the first byte that is not 0, which is how the library's facts
about `List.findIdx` reach `nzeros`. -/
theorem nzeros_eq_findIdx (s : List Byte) : nzeros s = s.findIdx (fun b => !(b == 0)) := by
  rw [nzeros, List.takeWhile_eq_take_findIdx_not, List.length_take,
    Nat.min_eq_left List.findIdx_le_length]

theorem nzeros_le_length (s : List Byte) : nzeros s ≤ s.length :=
  nzeros_eq_findIdx s ▸ List.findIdx_le_length

theorem getD_of_lt_nzeros (s : List Byte) (i : Nat) (hi : i < nzeros s) : s.getD i 0 = 0 := by
  have hlen : i < s.length := lt_of_lt_of_le hi (nzeros_le_length s)
  rw [nzeros_eq_findIdx] at hi
  rw [List.getD_eq_getElem s 0 hlen]
  simpa using List.not_of_lt_findIdx hi

theorem getD_nzeros_ne_zero (s : List Byte) (h : nzeros s < s.length) : s.getD (nzeros s) 0 ≠ 0 := by
  rw [List.getD_eq_getElem s 0 h]
  simp only [nzeros_eq_findIdx] at h ⊢
  simpa using List.findIdx_getElem (w := h)

/-! ### Big-endian values and digits of base 58 (R11) -/

@[simp] theorem be2nat_replicate_zero (k : Nat) : be2nat (List.replicate k 0) = 0 := by
  induction k with
  | zero => rfl
  | succ k ih => rw [List.replicate_succ', be2nat_concat, ih]; rfl

theorem be2nat_replicate_zero_append (k : Nat) (s : List Byte) :
    be2nat (List.replicate k 0 ++ s) = be2nat s := by
  rw [be2nat_append, be2nat_replicate_zero, Nat.zero_mul, Nat.zero_add]

@[simp] theorem digits58_zero : digits58 0 = [] := rfl

theorem digits58_of_pos (v : Nat) (hv : 0 < v) : digits58 v = digits58 (v / 58) ++ [v % 58] :=
  digitsIn_self 58 (by decide) v hv

/-- Settles O22: the run of leading zeros as the position of the first byte that is not 0, and the
recursions of `be2nat` and `digits58`. -/
theorem byteNumberFunctions : Obligations.ByteNumberFunctions :=
  ⟨fun s => ⟨nzeros_le_length s, getD_of_lt_nzeros s, getD_nzeros_ne_zero s⟩,
    ⟨be2nat_nil, be2nat_concat, be2nat_replicate_zero_append⟩,
    digits58_zero, digits58_of_pos⟩

/-! ### The alphabet's index (R12) -/

/-- In an admitted alphabet no character occurs twice, so any index that holds `ch` is the first
one, which is the one `alphaIndex` finds. -/
theorem alphaIndex_eq_some_iff (c : Config) (hc : c.alphaDistinct) (ch : Byte) (i : Nat) :
    alphaIndex c ch = some i ↔ i < 58 ∧ alphaAt c i = ch := by
  obtain ⟨hlen, hnodup⟩ := hc
  rw [alphaIndex, alphaAt, List.idxOf?_eq_some_iff]
  constructor
  · rintro ⟨hi, hch, -⟩
    exact ⟨hlen ▸ hi, by rw [List.getD_eq_getElem _ _ hi, hch]⟩
  · rintro ⟨hi, hch⟩
    have hi' : i < c.alpha.length := hlen.symm ▸ hi
    rw [List.getD_eq_getElem _ _ hi'] at hch
    refine ⟨hi', hch, fun j hj hjch => ?_⟩
    have hji : j = i := hnodup.getElem_inj_iff.mp (hjch.trans hch.symm)
    omega

/-! ### Minimal big-endian sequences (R12) -/

@[simp] theorem nat2be_zero : nat2be 0 = [] := rfl

theorem nat2be_of_pos (v : Nat) (hv : 0 < v) :
    nat2be v = nat2be (v / 256) ++ [BitVec.ofNat 8 (v % 256)] := by
  rw [nat2be, digitsIn_self 256 (by decide) v hv, List.map_append]
  rfl

theorem nat2be_length_pos (v : Nat) (hv : 0 < v) : 0 < (nat2be v).length := by
  simp [nat2be_of_pos v hv]

/-- The first byte of `nat2be v` is that of its quotient by 256, down to a number below 256, which
is its own first byte and is not 0. -/
theorem nat2be_head_ne_zero (v : Nat) (hv : 0 < v) : (nat2be v).getD 0 0 ≠ 0 := by
  induction v using Nat.strong_induction_on with
  | _ v ih =>
    rw [nat2be_of_pos v hv]
    rcases Nat.eq_zero_or_pos (v / 256) with hq | hq
    · rw [hq, nat2be_zero, List.nil_append, List.getD_cons_zero]
      intro hzero
      have : v % 256 % 256 = 0 := by simpa using congrArg BitVec.toNat hzero
      omega
    · rw [List.getD_append _ _ _ _ (nat2be_length_pos _ hq)]
      exact ih (v / 256) (Nat.div_lt_self hv (by decide)) hq

theorem be2nat_nat2be (v : Nat) : be2nat (nat2be v) = v := by
  induction v using Nat.strong_induction_on with
  | _ v ih =>
    rcases Nat.eq_zero_or_pos v with rfl | hv
    · rfl
    · rw [nat2be_of_pos v hv, be2nat_concat, ih (v / 256) (Nat.div_lt_self hv (by decide)),
        BitVec.toNat_ofNat]
      omega

/-- Settles O23: the first occurrence in an alphabet without repetition is the only one, and
`nat2be` is followed down its divisions by 256. -/
theorem digitNumberFunctions : Obligations.DigitNumberFunctions :=
  ⟨fun c ⟨_, _, hdistinct⟩ => alphaIndex_eq_some_iff c hdistinct,
    ⟨digits2nat_nil, digits2nat_concat⟩,
    nat2be_zero, nat2be_of_pos, nat2be_head_ne_zero, be2nat_nat2be⟩

end Sys2Proof.Machine
end

section
/-!
PROOFS. The standard alphabet as six ranges of consecutive codes (R32), and the registers as the
host reads them after reset (R33). Settles O27 and O41.
-/

namespace Sys2Proof.Machine

/-! ### The standard alphabet as ranges of codes (R31, R32) -/

/-- The consecutive codes from `lo` to `hi`, both included: a row of R32's table. -/
def codeRange (lo hi : Nat) : List Byte := (List.range' lo (hi + 1 - lo)).map (BitVec.ofNat 8)

@[simp] theorem codeRange_length (lo hi : Nat) : (codeRange lo hi).length = hi + 1 - lo := by
  simp [codeRange]

theorem bitcoinAlphabet_eq_codeRanges :
    bitcoinAlphabet = codeRange 0x31 0x39 ++ (codeRange 0x41 0x48 ++ (codeRange 0x4A 0x4E ++
      (codeRange 0x50 0x5A ++ (codeRange 0x61 0x6B ++ codeRange 0x6D 0x7A)))) := rfl

/-- A code is found in a run of consecutive codes at its distance from the first. -/
theorem idxOf?_map_range' (n lo : Nat) (hn : lo + n ≤ 256) (ch : Byte) :
    ((List.range' lo n).map (BitVec.ofNat 8)).idxOf? ch =
      if lo ≤ ch.toNat ∧ ch.toNat < lo + n then some (ch.toNat - lo) else none := by
  induction n generalizing lo with
  | zero => rw [if_neg (by omega)]; rfl
  | succ n ih =>
    rw [List.range'_succ, List.map_cons, List.idxOf?_cons, ih (lo + 1) (by omega)]
    by_cases hch : BitVec.ofNat 8 lo = ch
    · have hlo : ch.toNat = lo := by
        rw [← hch, BitVec.toNat_ofNat, Nat.mod_eq_of_lt (by omega)]
      simp [hch, hlo]
    · have hlo : ch.toNat ≠ lo := fun h => hch (by rw [← h, BitVec.ofNat_toNat, BitVec.setWidth_eq])
      rw [if_neg (by simpa using hch)]
      split_ifs <;> simp <;> omega

/-- The entries of one row of R32's table. -/
theorem idxOf?_codeRange (lo hi : Nat) (hlo : lo ≤ hi) (hhi : hi < 256) (ch : Byte) :
    (codeRange lo hi).idxOf? ch =
      if lo ≤ ch.toNat ∧ ch.toNat ≤ hi then some (ch.toNat - lo) else none := by
  have hin : ch.toNat < lo + (hi + 1 - lo) ↔ ch.toNat ≤ hi := by omega
  rw [codeRange, idxOf?_map_range' _ _ (by omega)]
  simp only [hin]

/-- A code of the first row has its index there; any other is looked up in the rows that follow, and
its index is shifted by the first row's length. -/
theorem idxOf?_codeRange_append (lo hi : Nat) (hlo : lo ≤ hi) (hhi : hi < 256) (rest : List Byte)
    (ch : Byte) :
    (codeRange lo hi ++ rest).idxOf? ch =
      if lo ≤ ch.toNat ∧ ch.toNat ≤ hi then some (ch.toNat - lo)
      else (rest.idxOf? ch).map (· + (hi + 1 - lo)) := by
  have happend : (codeRange lo hi ++ rest).idxOf? ch = ((codeRange lo hi).idxOf? ch).or
      ((rest.idxOf? ch).map (· + (codeRange lo hi).length)) := List.findIdx?_append
  rw [happend, idxOf?_codeRange lo hi hlo hhi, codeRange_length]
  split_ifs <;> rfl

/-- Settles O27: the alphabet is searched range by range, and each range passed adds its length to
the index. -/
theorem alphabetInverseTable : Obligations.AlphabetInverseTable := by
  intro ch
  simp [alphaIndex, defaultConfig, bitcoinAlphabet_eq_codeRanges, idxOf?_codeRange_append,
    idxOf?_codeRange, apply_ite (Option.map _), Nat.add_assoc]

/-! ### The registers after reset (R33) -/

/-- While no command runs, a read returns the word of the slot it addresses (R38). -/
theorem hostReadValue_of_not_busy (s : State) (a : PortIndex) (h : s.status.busy = false) :
    hostReadValue s a = slotWord s (portSlot s.cfg a) := by
  simp [hostReadValue, readUnspecified, h]

theorem hostReadValue_reset (a : PortIndex) :
    hostReadValue State.reset a = slotWord State.reset (portSlot defaultConfig a) :=
  hostReadValue_of_not_busy State.reset a rfl

/-- Settles O41: the block comes up idle, so each register reads as its slot's word, the encoding of
a cleared record, a zero length, or the default parameters. -/
theorem resetValues : Obligations.ResetValues := by
  unfold Obligations.ResetValues
  simp only [hostReadValue_reset]
  exact ⟨rfl, rfl, rfl, rfl, rfl, rfl, rfl, rfl⟩

end Sys2Proof.Machine
end

section
/-!
PROOFS. The two host primitives (R38) at every index of the map (R37), on an idle block, and the
accesses a running command turns away (R48). Settles O7 and O8.
-/

namespace Sys2Proof.Machine

/-! ### The address map, index by index (R37) -/

theorem portSlot_cmd (c : Config) (a : PortIndex) (ha : a.toNat = 0) : portSlot c a = .cmd := by
  simp [portSlot, ha]

theorem portSlot_status (c : Config) (a : PortIndex) (ha : a.toNat = 1) :
    portSlot c a = .status := by simp [portSlot, ha]

theorem portSlot_errinfo (c : Config) (a : PortIndex) (ha : a.toNat = 2) :
    portSlot c a = .errinfo := by simp [portSlot, ha]

theorem portSlot_blen (c : Config) (a : PortIndex) (ha : a.toNat = 3) : portSlot c a = .blen := by
  simp [portSlot, ha]

theorem portSlot_clen (c : Config) (a : PortIndex) (ha : a.toNat = 4) : portSlot c a = .clen := by
  simp [portSlot, ha]

theorem portSlot_cap (c : Config) (a : PortIndex) (ha : a.toNat = 5) : portSlot c a = .cap := by
  simp [portSlot, ha]

/-- Past the registers an index addresses a cell of a buffer or nothing. -/
theorem portSlot_of_six_le (c : Config) (a : PortIndex) (ha : 6 ≤ a.toNat) :
    portSlot c a =
      if 0x1000 ≤ a.toNat ∧ a.toNat < 0x1000 + c.nb then .bbuf (a.toNat - 0x1000)
      else if 0x2000 ≤ a.toNat ∧ a.toNat < 0x2000 + c.nc then .cbuf (a.toNat - 0x2000)
      else .reserved := by
  have hregs : a.toNat ≠ 0 ∧ a.toNat ≠ 1 ∧ a.toNat ≠ 2 ∧ a.toNat ≠ 3 ∧ a.toNat ≠ 4 ∧
      a.toNat ≠ 5 := by omega
  simp only [portSlot, hregs, if_false]

theorem portSlot_bbuf (c : Config) (a : PortIndex) (i : Nat) (hi : i < c.nb)
    (ha : a.toNat = 0x1000 + i) : portSlot c a = .bbuf i := by
  rw [portSlot_of_six_le c a (by omega), if_pos (by omega), ha, Nat.add_sub_cancel_left]

/-- The cells of `BBUF` end below those of `CBUF`, as `NB` is at most 2730 (R5). -/
theorem portSlot_cbuf (c : Config) (hc : c.nbInRange) (a : PortIndex) (i : Nat) (hi : i < c.nc)
    (ha : a.toNat = 0x2000 + i) : portSlot c a = .cbuf i := by
  obtain ⟨-, hnb⟩ := hc
  rw [portSlot_of_six_le c a (by omega), if_neg (by omega), if_pos (by omega), ha,
    Nat.add_sub_cancel_left]

theorem portSlot_reserved (c : Config) (hc : c.nbInRange) (a : PortIndex)
    (ha : (6 ≤ a.toNat ∧ a.toNat < 0x1000) ∨ (0x1000 + c.nb ≤ a.toNat ∧ a.toNat < 0x2000) ∨
      0x2000 + c.nc ≤ a.toNat) : portSlot c a = .reserved := by
  obtain ⟨-, hnb⟩ := hc
  rw [portSlot_of_six_le c a (by omega), if_neg (by omega), if_neg (by omega)]

/-! ### Accesses of an idle block, by the slot they address (R38) -/

section
variable {a : PortIndex} {s : State} (hs : Idle s)
include hs

theorem hostReadValue_of_slot {p : PortSlot} (hp : portSlot s.cfg a = p) :
    hostReadValue s a = slotWord s p :=
  hp ▸ hostReadValue_of_not_busy s a hs

/-- A read of an idle block draws no free word. -/
theorem hostRead_of_not_busy :
    hostRead a s = { s with readLog := hostReadValue s a :: s.readLog } := by
  simp [hostRead, readUnspecified, hs]

variable (v : Word)

theorem hostWrite_of_cmd (hp : portSlot s.cfg a = .cmd) :
    hostWrite a v s = writeCommand v s := by simp [hostWrite, hs, hp]

theorem hostWrite_of_blen (hp : portSlot s.cfg a = .blen) :
    hostWrite a v s = { s with blen := v.extractLsb' 0 16 } := by
  simp [hostWrite, hs, hp, BitVec.setWidth_eq_extractLsb']

theorem hostWrite_of_clen (hp : portSlot s.cfg a = .clen) :
    hostWrite a v s = { s with clen := v.extractLsb' 0 16 } := by
  simp [hostWrite, hs, hp, BitVec.setWidth_eq_extractLsb']

theorem hostWrite_of_bbuf {i : Nat} (hp : portSlot s.cfg a = .bbuf i) :
    hostWrite a v s = writeBbuf i (v.extractLsb' 0 8) s := by
  simp [hostWrite, hs, hp, BitVec.setWidth_eq_extractLsb']

theorem hostWrite_of_cbuf {i : Nat} (hp : portSlot s.cfg a = .cbuf i) :
    hostWrite a v s = writeCbuf i (v.extractLsb' 0 8) s := by
  simp [hostWrite, hs, hp, BitVec.setWidth_eq_extractLsb']

end

/-- A write to a register the host cannot write, or to no slot, does nothing, idle or busy. -/
theorem hostWrite_of_unwritable (a : PortIndex) (v : Word) (s : State)
    (hp : portSlot s.cfg a ∈ [.status, .errinfo, .cap, .reserved]) : hostWrite a v s = s := by
  simp only [List.mem_cons, List.not_mem_nil, or_false] at hp
  rcases hp with hp | hp | hp | hp <;> simp [hostWrite, hp]

/-! ### A cell after its write (R46) -/

/-- What the write of a cell of `BBUF` within the buffer leaves: the cell holds the
byte, and every other cell and all else are as they were. -/
theorem writeBbuf_spec (i : Nat) (b : Byte) (s : State) (hi : i < s.cfg.nb) :
    writeBbuf i b s = { s with bbuf := (writeBbuf i b s).bbuf } ∧
      readBbuf (writeBbuf i b s) i = b ∧
      ∀ j, j ≠ i → readBbuf (writeBbuf i b s) j = readBbuf s j :=
  ⟨rfl, by simp [readBbuf_writeBbuf, hi], fun j hj => by simp [readBbuf_writeBbuf, hj]⟩

theorem writeCbuf_spec (i : Nat) (b : Byte) (s : State) (hi : i < s.cfg.nc) :
    writeCbuf i b s = { s with cbuf := (writeCbuf i b s).cbuf } ∧
      readCbuf (writeCbuf i b s) i = b ∧
      ∀ j, j ≠ i → readCbuf (writeCbuf i b s) j = readCbuf s j :=
  ⟨rfl, by simp [readCbuf_writeCbuf, hi], fun j hj => by simp [readCbuf_writeCbuf, hj]⟩

/-- Settles O7: the map gives the slot of each index, and each primitive does what its slot says. -/
theorem idlePortAccesses : Obligations.IdlePortAccesses := by
  rintro a s ⟨hnb, -, -⟩ hs
  constructor
  · exact ⟨fun ha => hostReadValue_of_slot hs (portSlot_cmd _ a ha),
      fun ha => hostReadValue_of_slot hs (portSlot_status _ a ha),
      fun ha => hostReadValue_of_slot hs (portSlot_errinfo _ a ha),
      fun ha => hostReadValue_of_slot hs (portSlot_blen _ a ha),
      fun ha => hostReadValue_of_slot hs (portSlot_clen _ a ha),
      fun ha => hostReadValue_of_slot hs (portSlot_cap _ a ha),
      fun i hi ha => hostReadValue_of_slot hs (portSlot_bbuf _ a i hi ha),
      fun i hi ha => hostReadValue_of_slot hs (portSlot_cbuf _ hnb a i hi ha),
      fun ha => hostReadValue_of_slot hs (portSlot_reserved _ hnb a ha),
      hostRead_of_not_busy hs⟩
  · intro v
    refine ⟨fun ha => hostWrite_of_cmd hs v (portSlot_cmd _ a ha),
      fun ha => hostWrite_of_blen hs v (portSlot_blen _ a ha),
      fun ha => hostWrite_of_clen hs v (portSlot_clen _ a ha),
      fun i hi ha => ?bbuf, fun i hi ha => ?cbuf, fun ha => ?unwritable⟩
    case bbuf =>
      rw [hostWrite_of_bbuf hs v (portSlot_bbuf _ a i hi ha)]
      exact writeBbuf_spec i _ s hi
    case cbuf =>
      rw [hostWrite_of_cbuf hs v (portSlot_cbuf _ hnb a i hi ha)]
      exact writeCbuf_spec i _ s hi
    case unwritable =>
      apply hostWrite_of_unwritable
      rcases ha with ha | ha | ha | ha
      · simp [portSlot_status _ a ha]
      · simp [portSlot_errinfo _ a ha]
      · simp [portSlot_cap _ a ha]
      · simp [portSlot_reserved _ hnb a ha]

/-- Settles O8: the port and `exec` both test `BUSY` before anything else. -/
theorem busyWritesAreIgnored : Obligations.BusyWritesAreIgnored := fun s hs =>
  ⟨fun a v => hostWrite_of_busy a v s hs, fun i => exec_of_busy i s hs⟩

end Sys2Proof.Machine
end

section
/-!
PROOFS. The command decoder (R54, R55, R58) as the inverse of the command byte, and the write to
`CMD` of an idle block: acceptance (R57) and the illegal-command step (R59). Settles O2, O4 and O5.
-/

namespace Sys2Proof

/-! ### Command bytes and their fields (R54) -/

/-- Bit by bit: the low 3 bits of the byte are `OPC`, the 5 above are `ZERO`. -/
@[simp] theorem commandFields_commandByte (c : CommandWord) : commandFields (commandByte c) = c := by
  obtain ⟨zero, opc⟩ := c
  rw [commandFields, CommandWord.mk.injEq]
  constructor <;> ext i hi <;> grind [commandByte]

@[simp] theorem commandByte_commandFields (b : Byte) : commandByte (commandFields b) = b := by
  ext i hi
  by_cases h : i < 3 <;> grind [commandByte, commandFields]

theorem commandFields_eq_iff (b : Byte) (c : CommandWord) :
    commandFields b = c ↔ b = commandByte c :=
  ⟨fun h => by rw [← h, commandByte_commandFields],
    fun h => by rw [h, commandFields_commandByte]⟩

/-! ### The decoder (R55, R58) -/

theorem instrOfOpcode_eq_some_iff (opc : Code) (i : Instr) :
    instrOfOpcode opc = some i ↔ opc = opcodeOf i := by
  cases i <;> revert opc <;> decide

/-- The decoder inverts the command byte. -/
theorem decodeCommand_eq_ok_iff (b : Byte) (i : Instr) :
    decodeCommand b = .ok i ↔ b = commandByte { zero := 0, opc := opcodeOf i } := by
  calc decodeCommand b = .ok i
      ↔ (commandFields b).zero = 0 ∧ instrOfOpcode (commandFields b).opc = some i := by
        simp only [decodeCommand]
        split_ifs with hzero
        · cases instrOfOpcode (commandFields b).opc <;> simp [hzero]
        · exact iff_of_false (by simp) fun h => hzero h.1
    _ ↔ commandFields b = { zero := 0, opc := opcodeOf i } := by
        rw [instrOfOpcode_eq_some_iff, ← CommandWord.mk.injEq]
    _ ↔ b = commandByte { zero := 0, opc := opcodeOf i } := commandFields_eq_iff _ _

/-- The command bytes are 0x01 to 0x05, and no other byte decodes. -/
theorem exists_decodeCommand_ok_iff (b : Byte) :
    (∃ i, decodeCommand b = .ok i) ↔ 1 ≤ b.toNat ∧ b.toNat ≤ 5 := by
  constructor
  · rintro ⟨i, hi⟩
    obtain rfl := (decodeCommand_eq_ok_iff b i).mp hi
    cases i <;> decide
  · rintro ⟨hlo, hhi⟩
    have hb : b = BitVec.ofNat 8 b.toNat := by simp
    rw [hb]
    interval_cases b.toNat
    · exact ⟨.b58enc, rfl⟩
    · exact ⟨.b58dec, rfl⟩
    · exact ⟨.b58chkEnc, rfl⟩
    · exact ⟨.b58chkDec, rfl⟩
    · exact ⟨.b58chkValid, rfl⟩

/-- Settles O2: the decoder inverts the command byte, and the command bytes are 1 to 5. -/
theorem opcodeMapMatchesTheWholeWord : Obligations.OpcodeMapMatchesTheWholeWord := by
  intro b
  have hok (i : Instr) := (decodeCommand_eq_ok_iff b i).mpr
  exact ⟨fun hb => ⟨hok _ hb, rfl, rfl, rfl⟩, fun hb => ⟨hok _ hb, rfl, rfl, rfl⟩,
    fun hb => ⟨hok _ hb, rfl, rfl, rfl⟩, fun hb => ⟨hok _ hb, rfl, rfl, rfl⟩,
    fun hb => ⟨hok _ hb, rfl, rfl, rfl⟩,
    fun hb i hi => hb ((exists_decodeCommand_ok_iff b).mp ⟨i, hi⟩)⟩

end Sys2Proof

namespace Sys2Proof.Machine

/-! ### The write to `CMD` of an idle block (R38) -/

theorem commandOfPortWord_eq (v : Word) : commandOfPortWord v = v.extractLsb' 0 8 :=
  BitVec.setWidth_eq_extractLsb' (by decide)

theorem writeCommand_of_ok (v : Word) (s : State) (i : Instr)
    (h : decodeCommand (commandOfPortWord v) = .ok i) : writeCommand v s = accept i s := by
  simp [writeCommand, h]

theorem writeCommand_of_ne_ok (v : Word) (s : State)
    (h : ∀ i, decodeCommand (commandOfPortWord v) ≠ .ok i) :
    writeCommand v s = illegalCommand s := by
  rw [writeCommand]
  split
  next i hi => exact absurd hi (h i)
  next => rfl

theorem hostWrite_cmd (v : Word) (s : State) (hs : Idle s) : hostWrite 0 v s = writeCommand v s :=
  hostWrite_of_cmd hs v (portSlot_cmd s.cfg 0 rfl)

/-- `OP` is latched from bits 2:0 of the command byte, and the encoders are the commands 0x01 and
0x03 (R57). -/
theorem accept_of_decodeCommand (b : Byte) (i : Instr) (s : State)
    (h : decodeCommand b = .ok i) :
    accept i s =
      { s with
        status := statusRunning
        errinfo := errInfoClear
        op := b.extractLsb' 0 3
        ph := if b = 0x01 ∨ b = 0x03 then .encInit else .decInit } := by
  obtain rfl := (decodeCommand_eq_ok_iff b i).mp h
  cases i <;> rfl

/-- Settles O4: a word whose low byte is 1 to 5 decodes, and the command it decodes to is
accepted. -/
theorem acceptanceStartsTheCommand : Obligations.AcceptanceStartsTheCommand := by
  intro v s hs hlo hhi
  obtain ⟨i, hi⟩ := (exists_decodeCommand_ok_iff _).mpr ⟨hlo, hhi⟩
  have hop : v.extractLsb' 0 3 = (v.extractLsb' 0 8).extractLsb' 0 3 := by
    rw [BitVec.extractLsb'_extractLsb'_of_le (by decide)]
  rw [hostWrite_cmd v s hs, writeCommand_of_ok v s i (by rw [commandOfPortWord_eq, hi]),
    accept_of_decodeCommand _ i s hi, hop]
  rfl

/-- Settles O5: a word whose low byte is not 1 to 5 decodes to no command, and the report of the
illegal-command step reads as the two words. -/
theorem illegalCommandWordIsReported : Obligations.IllegalCommandWordIsReported := by
  intro v s hs hv
  have hnone : ∀ i, decodeCommand (commandOfPortWord v) ≠ .ok i := by
    intro i hi
    rw [commandOfPortWord_eq] at hi
    exact hv ((exists_decodeCommand_ok_iff _).mp ⟨i, hi⟩)
  rw [hostWrite_cmd v s hs, writeCommand_of_ne_ok v s hnone, illegalCommand_status,
    illegalCommand_errinfo]
  exact ⟨illegalCommand_eq s, by decide, by decide⟩

end Sys2Proof.Machine
end

section
/-!
PROOFS. The encoder at operation level: the bound of its output (R66), and what both encoder
commands deliver or report (R63). Settles O24 and O15.
-/

namespace Sys2Proof.Machine

/-! ### The bound of the output (R66) -/

theorem be2nat_lt_pow (s : List Byte) : be2nat s < 256 ^ s.length := by
  induction s using List.reverseRecOn with
  | nil => simp
  | append_singleton s b ih =>
    rw [be2nat_concat, List.length_append, List.length_singleton, pow_succ]
    have hb : b.toNat < 256 := b.isLt
    omega

theorem digits58_length_le_of_lt_pow (v k : Nat) (hv : v < 58 ^ k) : (digits58 v).length ≤ k := by
  induction k generalizing v with
  | zero => simp [show v = 0 by omega]
  | succ k ih =>
    rcases Nat.eq_zero_or_pos v with rfl | hpos
    · simp
    · have hq : v / 58 < 58 ^ k := Nat.div_lt_of_lt_mul (by rwa [pow_succ'] at hv)
      simpa [digits58_of_pos v hpos] using ih (v / 58) hq

/-- Two bytes hold less than three digits: `256 ^ 2 ≤ 58 ^ 3`, compared through the squares. -/
theorem pow_256_le_pow_58 (m : Nat) : 256 ^ m ≤ 58 ^ ((3 * m + 1) / 2) := by
  have hsq : (256 ^ m) ^ 2 ≤ (58 ^ ((3 * m + 1) / 2)) ^ 2 :=
    calc (256 ^ m) ^ 2 = (256 ^ 2) ^ m := pow_right_comm 256 m 2
      _ ≤ (58 ^ 3) ^ m := Nat.pow_le_pow_left (by decide) m
      _ = 58 ^ (3 * m) := (pow_mul 58 3 m).symm
      _ ≤ 58 ^ ((3 * m + 1) / 2 * 2) := Nat.pow_le_pow_right (by decide) (by omega)
      _ = (58 ^ ((3 * m + 1) / 2)) ^ 2 := pow_mul 58 _ 2
  exact (Nat.pow_le_pow_iff_left two_ne_zero).mp hsq

theorem digits58_be2nat_length_le (s : List Byte) :
    (digits58 (be2nat s)).length ≤ (3 * s.length + 1) / 2 :=
  digits58_length_le_of_lt_pow _ _ ((be2nat_lt_pow s).trans_le (pow_256_le_pow_58 s.length))

theorem encodeOut_length (c : Config) (s : List Byte) :
    (encodeOut c s).length = nzeros s + (digits58 (be2nat (s.drop (nzeros s)))).length := by
  simp [encodeOut]

theorem encodeOut_length_le (c : Config) (s : List Byte) :
    (encodeOut c s).length ≤ nzeros s + (3 * (s.length - nzeros s) + 1) / 2 := by
  rw [encodeOut_length, ← List.length_drop]
  exact Nat.add_le_add_left (digits58_be2nat_length_le _) _

theorem encodeOut_length_le_nc (c : Config) (hc : c.wf) (s : List Byte) (hs : s.length ≤ c.nb) :
    (encodeOut c s).length ≤ c.nc := by
  obtain ⟨-, ⟨hnc, -⟩, -⟩ := hc
  have hout := encodeOut_length_le c s
  have hnz := nzeros_le_length s
  omega

/-- Settles O24: a number of `m` bytes is below `256 ^ m`, hence below `58 ^ ceil(3m/2)`. -/
theorem encoderOutputFits : Obligations.EncoderOutputFits := fun c s => by
  have hnz := nzeros_le_length s
  refine ⟨?_, encodeOut_length_le c s, by omega, fun hc => encodeOut_length_le_nc c hc s⟩
  simpa using digits58_be2nat_length_le (s.drop (nzeros s))

/-! ### The result of an encoder command (R63) -/

theorem readCbuf_deliverChars (out : List Byte) (s : State) (k : Nat) :
    readCbuf (deliverChars out s) k =
      if k < out.length ∧ k < s.cfg.nc then out.getD k 0 else readCbuf s k := by
  simp only [readCbuf, deliverChars_cbuf, deliverChars_epoch, Memory.read_writeAll]
  by_cases h : k < out.length ∧ k < s.cfg.nc <;> simp [h]

theorem deliverChars_delivered (out : List Byte) (s : State) (hc : s.cfg.ncInRange)
    (hout : out.length ≤ s.cfg.nc) : CharsDelivered out s (deliverChars out s) := by
  obtain ⟨-, hnc⟩ := hc
  refine ⟨?length, fun k hk => ?below, fun k hk => ?above⟩
  case length =>
    rw [deliverChars_clen, BitVec.toNat_ofNat, Nat.mod_eq_of_lt (by omega)]
  case below => rw [readCbuf_deliverChars, if_pos ⟨hk, hk.trans_le hout⟩]
  case above => rw [readCbuf_deliverChars, if_neg (by omega)]

/-- An encoder command whose work sequence fits reports success and delivers the encoding. -/
theorem encodeWith_accept_of_le (i : Instr) (extra : Nat) (work : List Byte → List Byte) (s : State)
    (hc : s.cfg.wf) (hlen : s.blen.toNat + extra ≤ s.cfg.nb)
    (hwork : (work (sourceBytes s)).length ≤ s.cfg.nb)
    (t : State) (ht : encodeWith extra work (accept i s) = t) :
    ReportsSuccess false t ∧ CharsDelivered (encodeOut s.cfg (work (sourceBytes s))) s t ∧
      SameBytes s t ∧ SameOutside s t ∧ CommandEnded i t := by
  have hout := encodeOut_length_le_nc s.cfg hc _ hwork
  rw [encodeWith_of_le extra work (accept i s) hlen] at ht
  subst ht
  exact ⟨⟨rfl, rfl⟩, deliverChars_delivered _ (accept i s) hc.2.1 hout, ⟨rfl, fun _ => rfl⟩,
    ⟨rfl, rfl, rfl, rfl, rfl⟩, rfl, rfl⟩

/-- An encoder command whose work sequence does not fit reports it and empties `CLEN`, and no cell
is written. -/
theorem encodeWith_accept_of_lt (i : Instr) (hi : opcodeOf i = 1 ∨ opcodeOf i = 3) (extra : Nat)
    (work : List Byte → List Byte) (s : State) (hlen : s.cfg.nb < s.blen.toNat + extra)
    (t : State) (ht : encodeWith extra work (accept i s) = t) :
    ReportsFailure capacityFailure t ∧ t.clen = 0 ∧ (∀ k, readCbuf t k = readCbuf s k) ∧
      SameBytes s t ∧ SameOutside s t ∧ CommandEnded i t := by
  have hraises : opcodeOf i ≠ 5 := by rcases hi with h | h <;> rw [h] <;> decide
  have hblen : ¬ (opcodeOf i = 2 ∨ opcodeOf i = 4) := by rcases hi with h | h <;> rw [h] <;> decide
  rw [encodeWith_of_lt extra work (accept i s) hlen] at ht
  subst ht
  refine ⟨⟨?status, rfl⟩, if_pos hi, fun _ => rfl, ⟨if_neg hblen, fun _ => rfl⟩,
    ⟨rfl, rfl, rfl, rfl, rfl⟩, rfl, rfl⟩
  case status => rw [failWith_status, accept_op, statusFailed, if_neg hraises]

/-- Settles O15: the command is the encoders' rule on the accepted state, with the source itself as
its work sequence. -/
theorem b58encResult : Obligations.B58encResult := fun s hc hs =>
  ⟨fun hlen => ⟨_, exec_of_idle .b58enc s hs,
      encodeWith_accept_of_le .b58enc 0 id s hc hlen (by simpa using hlen) _ rfl⟩,
    fun hlen => ⟨_, exec_of_idle .b58enc s hs,
      encodeWith_accept_of_lt .b58enc (.inl rfl) 0 id s hlen _ rfl⟩⟩

end Sys2Proof.Machine
end

section
/-!
PROOFS. The encoder's sequencer steps: the phase that counts the leading zeros (R71), and the widths
of the accumulators (R68, R85). Settles O34 and O29.
-/

namespace Sys2Proof.Machine

/-- A run with its last step apart. -/
theorem seqIter_succ_eq_seqStep (n : Nat) (s : State) :
    seqIter (n + 1) s = seqStep (seqIter n s) := seqIter_add n 1 s

/-! ### Phase `ENC_ZEROS` (R71) -/

/-- The test of R71, at an index the count has reached: it goes on exactly below `nzeros`. -/
theorem lt_nzeros_iff (s : List Byte) (k : Nat) (hk : k ≤ nzeros s) :
    k < nzeros s ↔ k < s.length ∧ s.getD k 0 = 0 := by
  constructor
  · exact fun h => ⟨h.trans_le (nzeros_le_length s), getD_of_lt_nzeros s k h⟩
  · rintro ⟨hlen, hzero⟩
    refine lt_of_le_of_ne hk ?_
    rintro rfl
    exact getD_nzeros_ne_zero s hlen hzero

/-- The bytes `W[0..N)`, whose leading zeros the phase counts. -/
def workBytes (s : State) : List Byte := s.w.take s.dp.n.toNat

theorem nzeros_workBytes_lt (s : State) : nzeros (workBytes s) < 2 ^ 13 :=
  ((nzeros_le_length _).trans (List.length_take_le _ _)).trans_lt s.dp.n.isLt

/-- The test of R71 on the cells of `W`, said of `W[0..N)`. -/
theorem readW_eq_zero_iff_lt_nzeros (s : State) (hn : s.dp.n.toNat ≤ s.w.length) (k : Nat)
    (hk : k ≤ nzeros (workBytes s)) :
    k < s.dp.n.toNat ∧ readW s k = 0 ↔ k < nzeros (workBytes s) := by
  rw [lt_nzeros_iff _ _ hk, workBytes, List.length_take, Nat.min_eq_left hn]
  refine and_congr_right fun hkn => ?_
  rw [readW, List.getD_eq_getElem?_getD, List.getD_eq_getElem?_getD, List.getElem?_take_of_lt hkn]

/-- The state of the phase when the count stands at `k`. -/
def withIndex (k : Nat) (s : State) : State :=
  { s with dp := { s.dp with i := BitVec.ofNat 13 k } }

/-- The state in which the phase is left, `k` zeros counted. -/
def zerosCounted (k : Nat) (s : State) : State :=
  let count := BitVec.ofNat 13 k
  { s with ph := .encNext, dp := { s.dp with i := count, nz := count, start := count, dl := 0 } }

/-- The phase is entered with `I` = 0, where the count stands at 0. -/
theorem withIndex_zero (s : State) (hi : s.dp.i = 0) : withIndex 0 s = s := by
  rw [withIndex, show BitVec.ofNat 13 0 = s.dp.i from hi.symm]

/-- One step of the phase at `I` = `k`, on the path the count takes. -/
theorem seqStep_encZeros (s : State) (hph : s.ph = .encZeros) (hn : s.dp.n.toNat ≤ s.w.length)
    (k : Nat) (hk : k ≤ nzeros (workBytes s)) :
    seqStep (withIndex k s) =
      if k < nzeros (workBytes s) then withIndex (k + 1) s else zerosCounted k s := by
  have hi : (withIndex k s).dp.i.toNat = k :=
    (BitVec.toNat_ofNat k 13).trans (Nat.mod_eq_of_lt (hk.trans_lt (nzeros_workBytes_lt s)))
  have hstep : seqStep (withIndex k s) = encZerosStep (withIndex k s) := by
    simp [seqStep, withIndex, hph]
  rw [hstep, encZerosStep, hi]
  refine if_ctx_congr (readW_eq_zero_iff_lt_nzeros s hn k hk) (fun _ => ?_) (fun _ => rfl)
  simp [withIndex, BitVec.ofNat_add]

/-- The count stands at `k` after `k` steps, as long as only zeros were passed. -/
theorem seqIter_encZeros (s : State) (hph : s.ph = .encZeros) (hi : s.dp.i = 0)
    (hn : s.dp.n.toNat ≤ s.w.length) (k : Nat) (hk : k ≤ nzeros (workBytes s)) :
    seqIter k s = withIndex k s := by
  induction k with
  | zero => rw [seqIter_zero, withIndex_zero s hi]
  | succ k ih =>
    rw [seqIter_succ_eq_seqStep, ih (by omega), seqStep_encZeros s hph hn k (by omega),
      if_pos (by omega)]

/-- Settles O34: `nzeros` steps that each pass a zero, and the step that ends the phase. -/
theorem zerosPhaseCountsLeadingZeros : Obligations.ZerosPhaseCountsLeadingZeros := by
  intro s hph hi hn
  refine ⟨?_, (BitVec.toNat_ofNat _ _).trans (Nat.mod_eq_of_lt (nzeros_workBytes_lt s))⟩
  change seqIter (nzeros (workBytes s) + 1) s = _
  rw [seqIter_succ_eq_seqStep, seqIter_encZeros s hph hi hn _ le_rfl,
    seqStep_encZeros s hph hn _ le_rfl, if_neg (lt_irrefl _)]
  rfl

/-! ### The accumulators (R68, R85) -/

theorem divAcc_lt (s : State) (hrem : s.dp.rem.toNat ≤ 57) : divAcc s < 58 * 256 := by
  have hbyte := (readW s s.dp.j.toNat).isLt
  rw [divAcc]
  omega

theorem mulAcc_lt (s : State) (hcarry : s.dp.carry.toNat ≤ 57) : mulAcc s < 58 * 256 := by
  have hbyte := (readW s (s.cfg.nb - 1 - s.dp.j.toNat)).isLt
  rw [mulAcc]
  omega

/-- Settles O29: each accumulator is below `58 * 256`, and the rest is division by 58 or 256. -/
theorem accumulatorBounds : Obligations.AccumulatorBounds := by
  intro s
  constructor
  · intro hrem
    have hacc := divAcc_lt s hrem
    exact ⟨by omega, by omega, by omega, by omega⟩
  · intro hcarry
    have hacc := mulAcc_lt s hcarry
    exact ⟨by omega, by omega, by omega⟩

end Sys2Proof.Machine
end

section
/-!
PROOFS. Numbers and their digits on both sides of the codec: digit sequences without a leading
zero, the run of leading zeros apart from them, and how many bytes the digits can fill (R11, R12,
R82).
-/

namespace Sys2Proof.Machine

/-! ### Digit sequences as `Nat.digits`, least significant first (R11, R12) -/

theorem digitsIn_eq_reverse_digits (base : Nat) (hb : 1 < base) (v : Nat) :
    digitsIn base v v = (Nat.digits base v).reverse := by
  induction v using Nat.strong_induction_on with
  | _ v ih =>
    rcases Nat.eq_zero_or_pos v with rfl | hv
    · simp
    · rw [digitsIn_self base hb v hv, ih _ (Nat.div_lt_self hv hb), Nat.digits_def' hb hv,
        List.reverse_cons]

theorem digits2nat_eq_ofDigits (d : List Nat) : digits2nat d = Nat.ofDigits 58 d.reverse := by
  induction d using List.reverseRecOn with
  | nil => rfl
  | append_singleton d x ih =>
    rw [digits2nat_concat, ih, List.reverse_concat, Nat.ofDigits_cons]
    ring

theorem be2nat_eq_ofDigits (s : List Byte) :
    be2nat s = Nat.ofDigits 256 (s.map BitVec.toNat).reverse := by
  induction s using List.reverseRecOn with
  | nil => rfl
  | append_singleton s b ih =>
    rw [be2nat_concat, ih, List.map_append, List.map_singleton, List.reverse_concat,
      Nat.ofDigits_cons]
    ring

/-- The digits of the number of a sequence are that sequence, where it has no leading zero. -/
theorem digitsIn_ofDigits_reverse (base : Nat) (hb : 1 < base) (d : List Nat)
    (hd : ∀ x ∈ d, x < base) (hhead : d.head? ≠ some 0) :
    digitsIn base (Nat.ofDigits base d.reverse) (Nat.ofDigits base d.reverse) = d := by
  rw [digitsIn_eq_reverse_digits base hb, Nat.digits_ofDigits base hb, List.reverse_reverse]
  · simpa using hd
  · intro hne hlast
    exact hhead (by rw [← List.getLast?_reverse, List.getLast?_eq_some_getLast hne, hlast])

theorem digits2nat_digits58 (v : Nat) : digits2nat (digits58 v) = v := by
  rw [digits2nat_eq_ofDigits, digits58, digitsIn_eq_reverse_digits 58 (by decide),
    List.reverse_reverse, Nat.ofDigits_digits]

theorem digits58_digits2nat (d : List Nat) (hd : ∀ x ∈ d, x < 58) (hhead : d.head? ≠ some 0) :
    digits58 (digits2nat d) = d := by
  rw [digits58, digits2nat_eq_ofDigits]
  exact digitsIn_ofDigits_reverse 58 (by decide) d hd hhead

theorem digits58_head?_ne_zero (v : Nat) : (digits58 v).head? ≠ some 0 := by
  rcases Nat.eq_zero_or_pos v with rfl | hv
  · simp
  · rw [digits58, digitsIn_eq_reverse_digits 58 (by decide), List.head?_reverse,
      List.getLast?_eq_some_getLast (Nat.digits_ne_nil_iff_ne_zero.mpr hv.ne')]
    exact fun hlast => Nat.getLast_digit_ne_zero 58 hv.ne' (Option.some.inj hlast)

theorem lt_58_of_mem_digits58 (v x : Nat) (hx : x ∈ digits58 v) : x < 58 := by
  rw [digits58, digitsIn_eq_reverse_digits 58 (by decide), List.mem_reverse] at hx
  exact Nat.digits_lt_base (by decide) hx

theorem nat2be_be2nat (s : List Byte) (hhead : s.head? ≠ some 0) : nat2be (be2nat s) = s := by
  have hdigits : digitsIn 256 (be2nat s) (be2nat s) = s.map BitVec.toNat := by
    rw [be2nat_eq_ofDigits]
    refine digitsIn_ofDigits_reverse 256 (by decide) _ ?bytes ?head
    case bytes => simpa using fun b _ => b.isLt
    case head =>
      rw [List.head?_map, Ne, Option.map_eq_some_iff]
      rintro ⟨b, hb, hzero⟩
      exact hhead (hb.trans (congrArg some (BitVec.eq_of_toNat_eq hzero)))
  rw [nat2be, hdigits, List.map_map]
  simp [Function.comp_def]

theorem nat2be_head?_ne_zero (v : Nat) : (nat2be v).head? ≠ some 0 := by
  rcases Nat.eq_zero_or_pos v with rfl | hv
  · simp
  · intro hhead
    have hget : (nat2be v)[0]? = some 0 := List.head?_eq_getElem? ▸ hhead
    exact nat2be_head_ne_zero v hv (by rw [List.getD_eq_getElem?_getD, hget, Option.getD_some])

theorem nat2be_length_le_of_lt_pow (v k : Nat) (hv : v < 256 ^ k) : (nat2be v).length ≤ k := by
  rw [nat2be, List.length_map, digitsIn_eq_reverse_digits 256 (by decide), List.length_reverse]
  exact (Nat.digits_length_le_iff (by decide) v).mpr hv

theorem digits2nat_lt_pow (d : List Nat) (hd : ∀ x ∈ d, x < 58) : digits2nat d < 58 ^ d.length := by
  rw [digits2nat_eq_ofDigits, ← List.length_reverse]
  exact Nat.ofDigits_lt_base_pow_length (by decide) (by simpa using hd)

/-- Four digits hold less than three bytes: `58 ^ 4 ≤ 256 ^ 3`, compared through fourth powers. -/
theorem pow_58_le_pow_256 (m : Nat) : 58 ^ m ≤ 256 ^ ((3 * m + 3) / 4) := by
  have hfourth : (58 ^ m) ^ 4 ≤ (256 ^ ((3 * m + 3) / 4)) ^ 4 :=
    calc (58 ^ m) ^ 4 = (58 ^ 4) ^ m := pow_right_comm 58 m 4
      _ ≤ (256 ^ 3) ^ m := Nat.pow_le_pow_left (by decide) m
      _ = 256 ^ (3 * m) := (pow_mul 256 3 m).symm
      _ ≤ 256 ^ ((3 * m + 3) / 4 * 4) := Nat.pow_le_pow_right (by decide) (by omega)
      _ = (256 ^ ((3 * m + 3) / 4)) ^ 4 := pow_mul 256 _ 4
  exact (Nat.pow_le_pow_iff_left (by decide)).mp hfourth

theorem nat2be_digits2nat_length_le (d : List Nat) (hd : ∀ x ∈ d, x < 58) :
    (nat2be (digits2nat d)).length ≤ (3 * d.length + 3) / 4 :=
  nat2be_length_le_of_lt_pow _ _ ((digits2nat_lt_pow d hd).trans_le (pow_58_le_pow_256 d.length))

/-! ### A sequence as its leading zeros and the rest -/

/-- The run of zeros at the front, for bytes and for digits alike. -/
theorem exists_eq_replicate_append {α : Type} (z : α) (s : List α) :
    ∃ n e, s = List.replicate n z ++ e ∧ e.head? ≠ some z := by
  induction s with
  | nil => exact ⟨0, [], rfl, by simp⟩
  | cons x xs ih =>
    by_cases hx : x = z
    · obtain ⟨n, e, rfl, he⟩ := ih
      exact ⟨n + 1, e, by rw [hx, List.replicate_succ, List.cons_append], he⟩
    · exact ⟨0, x :: xs, rfl, by simpa using hx⟩

theorem length_takeWhile_replicate_append {α : Type} [BEq α] [LawfulBEq α] (z : α) (n : Nat)
    (e : List α) (he : e.head? ≠ some z) :
    ((List.replicate n z ++ e).takeWhile (· == z)).length = n := by
  have hstop : e.takeWhile (· == z) = [] := by
    cases e with
    | nil => rfl
    | cons x xs => exact List.takeWhile_cons_of_neg (by simpa using he)
  rw [List.takeWhile_append_of_pos (by simp), hstop, List.append_nil, List.length_replicate]

theorem nzeros_replicate_append (n : Nat) (e : List Byte) (he : e.head? ≠ some 0) :
    nzeros (List.replicate n 0 ++ e) = n := length_takeWhile_replicate_append 0 n e he

theorem nzeroDigits_replicate_append (n : Nat) (e : List Nat) (he : e.head? ≠ some 0) :
    nzeroDigits (List.replicate n 0 ++ e) = n := length_takeWhile_replicate_append 0 n e he

theorem nzeroDigits_le_length (d : List Nat) : nzeroDigits d ≤ d.length :=
  (List.takeWhile_sublist _).length_le

/-- The count of leading zero digits by what it says of the digits (R78). -/
theorem nzeroDigits_eq (d : List Nat) (nz : Nat) (hle : nz ≤ d.length)
    (hzero : ∀ i, i < nz → d.getD i 0 = 0) (hstop : nz < d.length → d.getD nz 0 ≠ 0) :
    nzeroDigits d = nz := by
  have hrun : d.take nz = List.replicate nz 0 := by
    refine List.ext_getElem (by simpa using hle) fun i hi _ => ?_
    rw [List.length_take] at hi
    have hget := hzero i (by omega)
    rw [List.getD_eq_getElem d 0 (by omega)] at hget
    rw [List.getElem_take, List.getElem_replicate, hget]
  have hhead : (d.drop nz).head? ≠ some 0 := by
    rw [List.head?_drop, Ne, List.getElem?_eq_some_iff]
    rintro ⟨hlt, h⟩
    exact hstop hlt (by rw [List.getD_eq_getElem d 0 hlt, h])
  rw [← List.take_append_drop nz d, hrun, nzeroDigits_replicate_append nz _ hhead]

theorem rawOf_replicate_append (n : Nat) (e : List Nat) (he : e.head? ≠ some 0) :
    rawOf (List.replicate n 0 ++ e) = List.replicate n 0 ++ nat2be (digits2nat e) := by
  rw [rawOf, nzeroDigits_replicate_append n e he, List.drop_left' (List.length_replicate ..)]

theorem encodeOut_replicate_append (c : Config) (n : Nat) (e : List Byte) (he : e.head? ≠ some 0) :
    encodeOut c (List.replicate n 0 ++ e) =
      (List.replicate n 0 ++ digits58 (be2nat e)).map (alphaAt c) := by
  rw [encodeOut, nzeros_replicate_append n e he, List.drop_left' (List.length_replicate ..),
    List.map_append, List.map_replicate]

theorem rawOf_replicate_zero (m : Nat) : rawOf (List.replicate m 0) = List.replicate m 0 := by
  simpa using rawOf_replicate_append m [] (by simp)

theorem rawOf_length (d : List Nat) :
    (rawOf d).length = nzeroDigits d + (nat2be (digits2nat (d.drop (nzeroDigits d)))).length := by
  simp [rawOf]

end Sys2Proof.Machine
end

section
/-!
PROOFS. The decoder's pure function: `decode_raw` with its tests in order (R78) and the bound of its
output (R82). Settles O21 and O25.
-/

namespace Sys2Proof.Machine

/-! ### The digits of a string (R12, R78) -/

/-- Over an admitted alphabet a string has the digits `d` exactly where it spells them out (R12). -/
theorem map_alphaIndex_eq_map_some_iff (c : Config) (hc : c.alphaDistinct) (t : List Byte)
    (d : List Nat) :
    t.map (alphaIndex c) = d.map some ↔ (∀ x ∈ d, x < 58) ∧ d.map (alphaAt c) = t := by
  induction t generalizing d with
  | nil => cases d <;> simp
  | cons ch t ih =>
    cases d with
    | nil => simp
    | cons x d =>
      simp only [List.map_cons, List.cons.injEq, ih, alphaIndex_eq_some_iff c hc,
        List.forall_mem_cons]
      exact and_and_and_comm

theorem firstOffender_of_map_eq (c : Config) (t : List Byte) (d : List Nat)
    (h : t.map (alphaIndex c) = d.map some) : firstOffender c t = none := by
  rw [firstOffender, List.findIdx?_eq_none_iff]
  intro ch hch
  have hmem : alphaIndex c ch ∈ d.map some := h ▸ List.mem_map_of_mem hch
  obtain ⟨x, -, hx⟩ := List.mem_map.mp hmem
  rw [← hx, Option.isNone_some]

theorem digitValues_of_map_eq (c : Config) (t : List Byte) (d : List Nat)
    (h : t.map (alphaIndex c) = d.map some) : digitValues c t = d := by
  have hget := congrArg (List.map (Option.getD · 0)) h
  simpa [digitValues, Function.comp_def] using hget

theorem map_alphaIndex_of_firstOffender_eq_none (c : Config) (t : List Byte)
    (h : firstOffender c t = none) : t.map (alphaIndex c) = (digitValues c t).map some := by
  rw [firstOffender, List.findIdx?_eq_none_iff] at h
  rw [digitValues, List.map_map]
  refine List.map_congr_left fun ch hch => ?_
  obtain ⟨x, hx⟩ := Option.isSome_iff_exists.mp (Option.isNone_eq_false_iff.mp (h ch hch))
  rw [Function.comp_apply, hx, Option.getD_some]

theorem firstOffender_eq_some (c : Config) (t : List Byte) (p : Nat) (hp : p < t.length)
    (hnone : alphaIndex c (t.getD p 0) = none)
    (hfirst : ∀ i, i < p → alphaIndex c (t.getD i 0) ≠ none) : firstOffender c t = some p := by
  rw [firstOffender, List.findIdx?_eq_some_iff_getElem]
  refine ⟨hp, ?_, fun i hi => ?_⟩
  · rw [← List.getD_eq_getElem t 0 hp, hnone, Option.isNone_none]
  · rw [← List.getD_eq_getElem t 0 (hi.trans hp), Option.isNone_iff_eq_none]
    exact hfirst i hi

/-! ### The tests of `decode_raw` (R78) -/

theorem decodeRaw_of_nc_lt (c : Config) (t : List Byte) (h : c.nc < t.length) :
    decodeRaw c t = .error capacityFailure := by rw [decodeRaw, if_pos h]

theorem decodeRaw_of_offender (c : Config) (t : List Byte) (hlen : t.length ≤ c.nc) (p : Nat)
    (hp : firstOffender c t = some p) :
    decodeRaw c t = .error { cause := .invalidCharacter, pos := p, char := t.getD p 0 } := by
  rw [decodeRaw, if_neg hlen.not_gt, hp]

theorem decodeRaw_of_digits (c : Config) (t : List Byte) (hlen : t.length ≤ c.nc) (d : List Nat)
    (hd : t.map (alphaIndex c) = d.map some) :
    decodeRaw c t = if c.nb < (rawOf d).length then .error capacityFailure else .ok (rawOf d) := by
  rw [decodeRaw, if_neg hlen.not_gt, firstOffender_of_map_eq c t d hd,
    digitValues_of_map_eq c t d hd]

/-- The three ways `decode_raw` can end: a test of capacity, an offender, or the raw bytes. -/
theorem decodeRaw_cases (c : Config) (t : List Byte) :
    decodeRaw c t = .error capacityFailure ∨
    (∃ p, decodeRaw c t = .error { cause := .invalidCharacter, pos := p, char := t.getD p 0 }) ∨
    ∃ d, t.map (alphaIndex c) = d.map some ∧ (rawOf d).length ≤ c.nb ∧
      decodeRaw c t = .ok (rawOf d) := by
  rcases Nat.lt_or_ge c.nc t.length with hlong | hlen
  · exact .inl (decodeRaw_of_nc_lt c t hlong)
  · cases hoff : firstOffender c t with
    | some p => exact .inr (.inl ⟨p, decodeRaw_of_offender c t hlen p hoff⟩)
    | none =>
      have hd := map_alphaIndex_of_firstOffender_eq_none c t hoff
      have heq := decodeRaw_of_digits c t hlen _ hd
      rcases Nat.lt_or_ge c.nb (rawOf (digitValues c t)).length with hbig | hfit
      · exact .inl (by rw [heq, if_pos hbig])
      · exact .inr (.inr ⟨_, hd, hfit, by rw [heq, if_neg hfit.not_gt]⟩)

theorem digits_of_decodeRaw_eq_ok (c : Config) (t raw : List Byte) (h : decodeRaw c t = .ok raw) :
    ∃ d, t.map (alphaIndex c) = d.map some ∧ (rawOf d).length ≤ c.nb ∧ raw = rawOf d := by
  rcases decodeRaw_cases c t with herr | ⟨p, herr⟩ | ⟨d, hd, hfit, hok⟩
  · cases h.symm.trans herr
  · cases h.symm.trans herr
  · exact ⟨d, hd, hfit, Except.ok.inj (h.symm.trans hok)⟩

theorem decodeRaw_length_le (c : Config) (t raw : List Byte) (h : decodeRaw c t = .ok raw) :
    raw.length ≤ c.nb := by
  obtain ⟨d, -, hfit, rfl⟩ := digits_of_decodeRaw_eq_ok c t raw h
  exact hfit

theorem cause_of_decodeRaw_eq_error (c : Config) (t : List Byte) (f : Failure)
    (h : decodeRaw c t = .error f) : f.cause = .invalidCharacter ∨ f.cause = .capacityExceeded := by
  rcases decodeRaw_cases c t with herr | ⟨p, herr⟩ | ⟨d, -, -, hok⟩
  · exact .inr (congrArg Failure.cause (Except.error.inj (h.symm.trans herr)))
  · exact .inl (congrArg Failure.cause (Except.error.inj (h.symm.trans herr)))
  · cases h.symm.trans hok

/-- Settles O21: the digits of a string without offender are `d`, and the conditions on `nz` fix
`nzeroDigits d`, so that the last two clauses are the two branches of the capacity test. -/
theorem decodeRawTestsInOrder : Obligations.DecodeRawTestsInOrder := by
  intro c t
  refine ⟨decodeRaw_of_nc_lt c t, fun hlen p hp hnone hfirst => ?offender,
    fun hlen d hd nz hnz hzero hstop => ?digits⟩
  case offender =>
    exact decodeRaw_of_offender c t hlen p (firstOffender_eq_some c t p hp hnone hfirst)
  case digits =>
    have hraw : rawOf d = List.replicate nz 0 ++ nat2be (digits2nat (d.drop nz)) := by
      rw [rawOf, nzeroDigits_eq d nz hnz hzero hstop]
    have hlength : (rawOf d).length = nz + (nat2be (digits2nat (d.drop nz))).length := by
      rw [hraw, List.length_append, List.length_replicate]
    rw [decodeRaw_of_digits c t hlen d hd, hlength, ← hraw]
    exact ⟨fun hbig => if_pos hbig, fun hfit => if_neg hfit.not_gt⟩

/-! ### The bound of the decoder's output (R82) -/

/-- `NC` zero characters decode to `NC` zero bytes, which do not fit where `NB < NC`. -/
theorem decodeRaw_zeroChars (c : Config) (hc : c.alphaDistinct) (hcap : c.nb < c.nc) :
    decodeRaw c (List.replicate c.nc (alphaAt c 0)) = .error capacityFailure := by
  have hd : (List.replicate c.nc (alphaAt c 0)).map (alphaIndex c) =
      (List.replicate c.nc 0).map some :=
    (map_alphaIndex_eq_map_some_iff c hc _ _).mpr ⟨by simp, List.map_replicate⟩
  rw [decodeRaw_of_digits c _ (List.length_replicate ..).le _ hd, rawOf_replicate_zero,
    List.length_replicate, if_pos hcap]

/-- Settles O25: `m` digits are a number below `58 ^ m`, hence below `256 ^ ceil(3m/4)`; zero digits
keep their count, which reaches the bound and passes `NB`. -/
theorem decoderOutputBound : Obligations.DecoderOutputBound := by
  refine ⟨fun d hd => ?bounds, fun m => ?reached, fun c ⟨_, _, hc⟩ hcap => ?exceeded⟩
  case bounds =>
    have hnz := nzeroDigits_le_length d
    have hbody : (nat2be (digits2nat (d.drop (nzeroDigits d)))).length ≤
        (3 * (d.length - nzeroDigits d) + 3) / 4 := by
      simpa using nat2be_digits2nat_length_le _ fun x hx => hd x (List.mem_of_mem_drop hx)
    exact ⟨hbody, by rw [rawOf_length]; omega, by omega⟩
  case reached => rw [rawOf_replicate_zero, List.length_replicate]
  case exceeded =>
    refine ⟨List.replicate c.nc (alphaAt c 0), (List.length_replicate ..).le, fun ch hch => ?_,
      decodeRaw_zeroChars c hc hcap⟩
    rw [List.eq_of_mem_replicate hch, (alphaIndex_eq_some_iff c hc _ 0).mpr ⟨by decide, rfl⟩]
    exact Option.some_ne_none 0

end Sys2Proof.Machine
end

section
/-!
PROOFS. Encoder and decoder are inverse bijections within the capacities (R83). Settles O26.
-/

namespace Sys2Proof.Machine

/-! ### Encoder after decoder and decoder after encoder (R83) -/

/-- What the encoder spells out are digits that stand for the bytes it was given. -/
theorem exists_digits_encodeOut (c : Config) (b : List Byte) :
    ∃ d, encodeOut c b = d.map (alphaAt c) ∧ (∀ x ∈ d, x < 58) ∧ rawOf d = b := by
  obtain ⟨n, e, rfl, he⟩ := exists_eq_replicate_append 0 b
  refine ⟨List.replicate n 0 ++ digits58 (be2nat e), encodeOut_replicate_append c n e he,
    fun x hx => ?range, ?raw⟩
  case range =>
    rcases List.mem_append.mp hx with hzero | hdigit
    · rw [List.eq_of_mem_replicate hzero]; decide
    · exact lt_58_of_mem_digits58 _ x hdigit
  case raw =>
    rw [rawOf_replicate_append n _ (digits58_head?_ne_zero _), digits2nat_digits58,
      nat2be_be2nat e he]

theorem encodeOut_rawOf (c : Config) (d : List Nat) (hd : ∀ x ∈ d, x < 58) :
    encodeOut c (rawOf d) = d.map (alphaAt c) := by
  obtain ⟨n, e, rfl, he⟩ := exists_eq_replicate_append 0 d
  rw [rawOf_replicate_append n e he, encodeOut_replicate_append c n _ (nat2be_head?_ne_zero _),
    be2nat_nat2be, digits58_digits2nat e (fun x hx => hd x (List.mem_append_right _ hx)) he]

theorem decodeRaw_encodeOut (c : Config) (hc : c.wf) (b : List Byte) (hb : b.length ≤ c.nb) :
    decodeRaw c (encodeOut c b) = .ok b := by
  have hlen := encodeOut_length_le_nc c hc b hb
  obtain ⟨d, hout, hd, hraw⟩ := exists_digits_encodeOut c b
  have hdigits := (map_alphaIndex_eq_map_some_iff c hc.2.2 _ d).mpr ⟨hd, hout.symm⟩
  rw [decodeRaw_of_digits c _ hlen d hdigits, hraw, if_neg hb.not_gt]

theorem encodeOut_of_decodeRaw_eq_ok (c : Config) (hc : c.alphaDistinct) (t raw : List Byte)
    (h : decodeRaw c t = .ok raw) : encodeOut c raw = t := by
  obtain ⟨d, hdigits, -, rfl⟩ := digits_of_decodeRaw_eq_ok c t raw h
  obtain ⟨hd, hspell⟩ := (map_alphaIndex_eq_map_some_iff c hc t d).mp hdigits
  rw [encodeOut_rawOf c d hd, hspell]

/-- Settles O26: on both sides the run of leading zeros is kept and the rest is the same number; the
decoder is injective because the encoder undoes it. -/
theorem codecRoundTrip : Obligations.CodecRoundTrip := by
  intro c hc
  have hinv := encodeOut_of_decodeRaw_eq_ok c hc.2.2
  exact ⟨decodeRaw_encodeOut c hc, hinv,
    fun t u raw ht hu => (hinv t raw ht).symm.trans (hinv u raw hu)⟩

end Sys2Proof.Machine
end

section
/-!
PROOFS. The decoder command at operation level: what it delivers or reports (R79). Settles O16.
-/

namespace Sys2Proof.Machine

/-! ### The result of a decoder command (R79) -/

theorem readBbuf_deliverBytes (out : List Byte) (s : State) (k : Nat) :
    readBbuf (deliverBytes out s) k =
      if k < out.length ∧ k < s.cfg.nb then out.getD k 0 else readBbuf s k := by
  simp only [readBbuf, deliverBytes_bbuf, deliverBytes_epoch, Memory.read_writeAll]
  by_cases h : k < out.length ∧ k < s.cfg.nb <;> simp [h]

theorem deliverBytes_delivered (out : List Byte) (s : State) (hc : s.cfg.nbInRange)
    (hout : out.length ≤ s.cfg.nb) : BytesDelivered out s (deliverBytes out s) := by
  obtain ⟨-, hnb⟩ := hc
  refine ⟨?length, fun k hk => ?below, fun k hk => ?above⟩
  case length =>
    rw [deliverBytes_blen, BitVec.toNat_ofNat, Nat.mod_eq_of_lt (by omega)]
  case below => rw [readBbuf_deliverBytes, if_pos ⟨hk, hk.trans_le hout⟩]
  case above => rw [readBbuf_deliverBytes, if_neg (by omega)]

/-- A decoder command whose tests pass reports success and delivers the bytes. -/
theorem complete_deliverBytes_accept (i : Instr) (out : List Byte) (s : State) (hc : s.cfg.wf)
    (hout : out.length ≤ s.cfg.nb) (t : State) (ht : complete (deliverBytes out (accept i s)) = t) :
    ReportsSuccess false t ∧ BytesDelivered out s t ∧ SameChars s t ∧ SameOutside s t ∧
      CommandEnded i t := by
  subst ht
  exact ⟨⟨rfl, rfl⟩, deliverBytes_delivered out (accept i s) hc.1 hout, ⟨rfl, fun _ => rfl⟩,
    ⟨rfl, rfl, rfl, rfl, rfl⟩, rfl, rfl⟩

/-- A decoder command that fails reports it and empties `BLEN`, and no cell is written. -/
theorem failWith_accept_of_decoder (i : Instr) (hi : opcodeOf i = 2 ∨ opcodeOf i = 4) (f : Failure)
    (s t : State) (ht : failWith f (accept i s) = t) :
    ReportsFailure f t ∧ t.blen = 0 ∧ (∀ k, readBbuf t k = readBbuf s k) ∧
      SameChars s t ∧ SameOutside s t ∧ CommandEnded i t := by
  have hraises : opcodeOf i ≠ 5 := by rcases hi with h | h <;> rw [h] <;> decide
  have hclen : ¬ (opcodeOf i = 1 ∨ opcodeOf i = 3) := by rcases hi with h | h <;> rw [h] <;> decide
  subst ht
  refine ⟨⟨?status, rfl⟩, if_pos hi, fun _ => rfl, ⟨if_neg hclen, fun _ => rfl⟩,
    ⟨rfl, rfl, rfl, rfl, rfl⟩, rfl, rfl⟩
  case status => rw [failWith_status, accept_op, statusFailed, if_neg hraises]

theorem exec_b58dec_of_idle (s : State) (hs : Idle s) :
    exec .b58dec s = .next (deliverOrFail (decodeRaw s.cfg (sourceChars s)) (accept .b58dec s)) :=
  exec_of_idle .b58dec s hs

/-- Settles O16: the command's rule on the accepted state, by the result of `decode_raw`. -/
theorem b58decResult : Obligations.B58decResult := by
  intro s hc hs
  rw [exec_b58dec_of_idle s hs]
  refine ⟨fun raw hraw => ⟨_, rfl, ?success⟩, fun f hf => ⟨?cause, _, rfl, ?failure⟩⟩
  case success =>
    rw [hraw, deliverOrFail_ok]
    exact complete_deliverBytes_accept .b58dec raw s hc (decodeRaw_length_le _ _ raw hraw) _ rfl
  case cause => exact cause_of_decodeRaw_eq_error _ _ f hf
  case failure =>
    rw [hf, deliverOrFail_error]
    exact failWith_accept_of_decoder .b58dec (.inl rfl) f s _ rfl

end Sys2Proof.Machine
end

section
/-!
PROOFS. The hash: the cells of the padded message (R100), messages of one block (R103) and the check
values (R107). Settles O35, O36 and O37.
-/

namespace Sys2Proof.Machine

/-! ### The length of a message in bits (R100) -/

@[simp] theorem lengthBytes_length (len : Nat) : (lengthBytes len).length = 8 := by
  simp [lengthBytes]

theorem lengthBytes_getD (len j : Nat) (hj : j < 8) :
    ((lengthBytes len).getD j 0).toNat = 8 * len / 256 ^ (7 - j) % 256 := by
  simp [lengthBytes, List.getD_eq_getElem?_getD, List.getElem?_range hj]

/-! ### The padded message (R100) -/

/-- The blocks have room for the message, the byte `0x80` and the eight bytes of the length. -/
theorem message_fits_shaBlocks (len : Nat) : len + 9 ≤ 64 * shaBlocks len := by
  unfold shaBlocks
  omega

theorem shaPad_length (msg : List Byte) : (shaPad msg).length = 64 * shaBlocks msg.length := by
  have hfit := message_fits_shaBlocks msg.length
  simp only [shaPad, List.length_append, List.length_singleton, List.length_replicate,
    lengthBytes_length]
  omega

theorem shaPad_getD_message (msg : List Byte) (k : Nat) (hk : k < msg.length) :
    (shaPad msg).getD k 0 = msg.getD k 0 := by
  simp only [shaPad, List.append_assoc]
  exact List.getD_append _ _ _ _ hk

theorem shaPad_getD_marker (msg : List Byte) : (shaPad msg).getD msg.length 0 = 0x80 := by
  simp only [shaPad, List.append_assoc]
  rw [List.getD_append_right _ _ _ _ le_rfl, Nat.sub_self]
  rfl

theorem shaPad_getD_zeros (msg : List Byte) (k : Nat) (hlo : msg.length < k)
    (hhi : k < 64 * shaBlocks msg.length - 8) : (shaPad msg).getD k 0 = 0 := by
  have hstart : (msg ++ [0x80]).length = msg.length + 1 := List.length_append
  rw [shaPad, List.append_assoc, List.getD_append_right _ _ _ _ (by omega), hstart,
    List.getD_append _ _ _ _ (by rw [List.length_replicate]; omega)]
  exact List.getD_replicate _ (by omega)

theorem shaPad_getD_length (msg : List Byte) (j : Nat) :
    (shaPad msg).getD (64 * shaBlocks msg.length - 8 + j) 0 =
      (lengthBytes msg.length).getD j 0 := by
  have hfit := message_fits_shaBlocks msg.length
  have hstart : (msg ++ [0x80] ++ List.replicate
      (64 * shaBlocks msg.length - 8 - (msg.length + 1)) (0 : Byte)).length =
        64 * shaBlocks msg.length - 8 := by
    simp only [List.length_append, List.length_singleton, List.length_replicate]
    omega
  rw [shaPad, List.getD_append_right _ _ _ _ (by omega), hstart, Nat.add_sub_cancel_left]

/-- Settles O35: the four parts of the padded message lie one behind the other. -/
theorem paddingLayout : Obligations.PaddingLayout := fun msg _ =>
  ⟨shaPad_length msg, shaPad_getD_message msg, shaPad_getD_marker msg, shaPad_getD_zeros msg,
    fun j hj => (congrArg BitVec.toNat (shaPad_getD_length msg j)).trans
      (lengthBytes_getD msg.length j hj)⟩

/-! ### Messages of one block (R102, R103) -/

theorem shaBlock_zero_of_one_block (msg : List Byte) (h : shaBlocks msg.length = 1) :
    shaBlock msg 0 = shaPad msg := by
  rw [shaBlock, Nat.mul_zero, List.drop_zero]
  exact List.take_of_length_le (by rw [shaPad_length, h])

theorem sha256_of_one_block (msg : List Byte) (h : shaBlocks msg.length = 1) :
    sha256 msg = serialize (compress shaIV (shaPad msg)) := by
  rw [sha256, h, ← shaBlock_zero_of_one_block msg h]
  rfl

/-- The padding of a digest: the first six bytes of its length, 256 bits, continue the zeros. -/
theorem shaPad_of_length_32 (dg : List Byte) (h : dg.length = 32) : shaPad dg = digestBlock dg := by
  rw [shaPad, digestBlock, h, List.append_assoc (dg ++ [0x80]), List.append_assoc (dg ++ [0x80])]
  exact congrArg (dg ++ [0x80] ++ ·) (by decide)

theorem sha256_of_length_32 (dg : List Byte) (h : dg.length = 32) :
    sha256 dg = serialize (compress shaIV (digestBlock dg)) := by
  rw [sha256_of_one_block dg (by rw [h]; rfl), shaPad_of_length_32 dg h]

/-- Settles O36. -/
theorem digestHashIsOneBlock : Obligations.DigestHashIsOneBlock := sha256_of_length_32

/-! ### The check values (R107) -/

/-- Settles O37: the kernel runs the hash on the four messages of the table. -/
theorem hashCheckValues : Obligations.HashCheckValues :=
  ⟨by decide +kernel, by decide +kernel, by decide +kernel, by decide +kernel⟩

end Sys2Proof.Machine
end

section
/-!
PROOFS. The checksum (R108) and the tests of the checksum decoder on the decoded bytes (R111): they
pass exactly for a payload followed by its checksum.
-/

namespace Sys2Proof.Machine

/-! ### The length of a checksum (R102, R108) -/

@[simp] theorem serialize_length (h : Hash) : (serialize h).length = 32 := by
  simp [serialize, wordBytes]

@[simp] theorem sha256_length (msg : List Byte) : (sha256 msg).length = 32 := serialize_length _

@[simp] theorem checksum_length (p : List Byte) : (checksum p).length = 4 := by
  simp [checksum, Config.ckLen]

/-! ### The tests on the decoded bytes (R111) -/

theorem verifyRaw_of_short (raw : List Byte) (h : raw.length < 4) :
    verifyRaw raw = .error { cause := .insufficientLength, pos := raw.length, char := 0 } :=
  if_pos h

theorem verifyRaw_of_mismatch (raw : List Byte) (hlen : 4 ≤ raw.length)
    (h : raw.drop (raw.length - 4) ≠ checksum (raw.take (raw.length - 4))) :
    verifyRaw raw = .error { cause := .checksumMismatch, pos := 0, char := 0 } :=
  (if_neg hlen.not_gt).trans (if_neg h)

theorem verifyRaw_of_match (raw : List Byte) (hlen : 4 ≤ raw.length)
    (h : raw.drop (raw.length - 4) = checksum (raw.take (raw.length - 4))) :
    verifyRaw raw = .ok (raw.take (raw.length - 4)) :=
  (if_neg hlen.not_gt).trans (if_pos h)

theorem verifyRaw_append_checksum (p : List Byte) : verifyRaw (p ++ checksum p) = .ok p := by
  have hlen : (p ++ checksum p).length - 4 = p.length := by simp
  have hmatch := verifyRaw_of_match (p ++ checksum p) (by simp)
  simpa only [hlen, List.take_left, List.drop_left, forall_const] using hmatch

/-- The tests pass exactly for a payload followed by its checksum. -/
theorem verifyRaw_eq_ok_iff (raw p : List Byte) :
    verifyRaw raw = .ok p ↔ raw = p ++ checksum p := by
  refine ⟨fun h => ?_, fun h => h ▸ verifyRaw_append_checksum p⟩
  rcases Nat.lt_or_ge raw.length 4 with hshort | hlen
  · cases h.symm.trans (verifyRaw_of_short raw hshort)
  · by_cases hck : raw.drop (raw.length - 4) = checksum (raw.take (raw.length - 4))
    · obtain rfl := Except.ok.inj (h.symm.trans (verifyRaw_of_match raw hlen hck))
      rw [← hck, List.take_append_drop]
    · cases h.symm.trans (verifyRaw_of_mismatch raw hlen hck)

/-! ### All tests of a character sequence (R111) -/

theorem checkDecode_of_error {c : Config} {t : List Byte} {f : Failure}
    (h : decodeRaw c t = .error f) : checkDecode c t = .error f := by rw [checkDecode, h]

theorem checkDecode_of_ok {c : Config} {t raw : List Byte} (h : decodeRaw c t = .ok raw) :
    checkDecode c t = verifyRaw raw := by rw [checkDecode, h]

theorem checkDecode_length_le (c : Config) (t p : List Byte) (h : checkDecode c t = .ok p) :
    p.length ≤ c.nb := by
  cases hraw : decodeRaw c t with
  | error f => cases h.symm.trans (checkDecode_of_error hraw)
  | ok raw =>
    have hfit := decodeRaw_length_le c t raw hraw
    rw [(verifyRaw_eq_ok_iff raw p).mp ((checkDecode_of_ok hraw).symm.trans h),
      List.length_append] at hfit
    omega

/-- The tests undo the encoding of a payload followed by its checksum (R118). -/
theorem checkDecode_encodeOut_append_checksum (c : Config) (hc : c.wf) (p : List Byte)
    (hp : p.length + 4 ≤ c.nb) : checkDecode c (encodeOut c (p ++ checksum p)) = .ok p := by
  have hraw := decodeRaw_encodeOut c hc (p ++ checksum p) (by simpa using hp)
  rw [checkDecode_of_ok hraw, verifyRaw_append_checksum]

end Sys2Proof.Machine
end

section
/-!
PROOFS. The commands of the checksum layer at operation level: what each delivers or reports (R109,
R111, R115), that the validator never raises (R117), and the round trip (R118). Settles O17, O18,
O19, O52 and O55.
-/

namespace Sys2Proof.Machine

/-! ### The checksum encoder (R109) -/

/-- Settles O17: the encoders' rule, with the four bytes of the checksum behind the source. -/
theorem b58chkEncResult : Obligations.B58chkEncResult := by
  intro s hc hs
  rw [exec_of_idle .b58chkEnc s hs]
  refine ⟨fun hlen => ⟨_, rfl, ?success⟩, fun hlen => ⟨_, rfl, ?failure⟩⟩
  case success =>
    have hwork : (sourceBytes s ++ checksum (sourceBytes s)).length ≤ s.cfg.nb := by simpa using hlen
    exact encodeWith_accept_of_le .b58chkEnc Config.ckLen (fun p => p ++ checksum p) s hc hlen hwork
      _ rfl
  case failure =>
    exact encodeWith_accept_of_lt .b58chkEnc (.inr rfl) Config.ckLen (fun p => p ++ checksum p) s
      hlen _ rfl

/-! ### The checksum decoder, by the result of its tests (R111) -/

theorem exec_b58chkDec_of_ok (s : State) (hc : s.cfg.wf) (hs : Idle s) (p : List Byte)
    (h : checkDecode s.cfg (sourceChars s) = .ok p) :
    ∃ t, exec .b58chkDec s = .next t ∧ ReportsSuccess false t ∧ BytesDelivered p s t ∧
      SameChars s t ∧ SameOutside s t ∧ CommandEnded .b58chkDec t := by
  refine ⟨_, exec_of_idle .b58chkDec s hs, ?_⟩
  have hfit := checkDecode_length_le _ _ p h
  refine complete_deliverBytes_accept .b58chkDec p s hc hfit _ ?_
  rw [commandBody, accept_cfg, sourceChars_accept, h, deliverOrFail_ok]

theorem exec_b58chkDec_of_error (s : State) (hs : Idle s) (f : Failure)
    (h : checkDecode s.cfg (sourceChars s) = .error f) :
    ∃ t, exec .b58chkDec s = .next t ∧ ReportsFailure f t ∧
      t.blen = 0 ∧ (∀ k, readBbuf t k = readBbuf s k) ∧
      SameChars s t ∧ SameOutside s t ∧ CommandEnded .b58chkDec t := by
  refine ⟨_, exec_of_idle .b58chkDec s hs, failWith_accept_of_decoder .b58chkDec (.inr rfl) f s _ ?_⟩
  rw [commandBody, accept_cfg, sourceChars_accept, h, deliverOrFail_error]

/-- Settles O18: the command delivers or reports what its tests give, and each clause says which
test that is. -/
theorem b58chkDecResult : Obligations.B58chkDecResult := by
  intro s hc hs
  have hfails := exec_b58chkDec_of_error s hs
  refine ⟨fun f hf => hfails f (checkDecode_of_error hf), fun raw hraw => ?_⟩
  have htests := checkDecode_of_ok hraw
  exact ⟨fun hshort => hfails _ (htests.trans (verifyRaw_of_short raw hshort)),
    fun hlen hck => hfails _ (htests.trans (verifyRaw_of_mismatch raw hlen hck)),
    fun hlen hck => exec_b58chkDec_of_ok s hc hs _ (htests.trans (verifyRaw_of_match raw hlen hck))⟩

/-! ### The validator, by the result of its tests (R115) -/

theorem exec_b58chkValid_of_ok (s : State) (hs : Idle s) (p : List Byte)
    (h : checkDecode s.cfg (sourceChars s) = .ok p) :
    ∃ t, exec .b58chkValid s = .next t ∧ ReportsSuccess true t ∧
      SameBytes s t ∧ SameChars s t ∧ SameOutside s t ∧ CommandEnded .b58chkValid t := by
  refine ⟨complete (setValid (accept .b58chkValid s)), ?runs, ⟨rfl, rfl⟩, ⟨rfl, fun _ => rfl⟩,
    ⟨rfl, fun _ => rfl⟩, ⟨rfl, rfl, rfl, rfl, rfl⟩, rfl, rfl⟩
  case runs =>
    rw [exec_of_idle .b58chkValid s hs, commandBody, accept_cfg, sourceChars_accept, h,
      answerValid_ok]

theorem exec_b58chkValid_of_error (s : State) (hs : Idle s) (f : Failure)
    (h : checkDecode s.cfg (sourceChars s) = .error f) :
    ∃ t, exec .b58chkValid s = .next t ∧ RecordsFailure f t ∧
      SameBytes s t ∧ SameChars s t ∧ SameOutside s t ∧ CommandEnded .b58chkValid t := by
  refine ⟨failWith f (accept .b58chkValid s), ?runs, ⟨rfl, rfl⟩, ⟨rfl, fun _ => rfl⟩,
    ⟨rfl, fun _ => rfl⟩, ⟨rfl, rfl, rfl, rfl, rfl⟩, rfl, rfl⟩
  case runs =>
    rw [exec_of_idle .b58chkValid s hs, commandBody, accept_cfg, sourceChars_accept, h,
      answerValid_error]

/-- Settles O19: the command answers or records what the tests of the checksum decoder give. -/
theorem b58chkValidResult : Obligations.B58chkValidResult := by
  intro s hs
  have hfails := exec_b58chkValid_of_error s hs
  refine ⟨fun f hf => hfails f (checkDecode_of_error hf), fun raw hraw => ?_⟩
  have htests := checkDecode_of_ok hraw
  exact ⟨fun hshort => hfails _ (htests.trans (verifyRaw_of_short raw hshort)),
    fun hlen hck => hfails _ (htests.trans (verifyRaw_of_mismatch raw hlen hck)),
    fun hlen hck => exec_b58chkValid_of_ok s hs _ (htests.trans (verifyRaw_of_match raw hlen hck))⟩

/-- Settles O52: a success has no cause to report, and a failure is recorded with `ERR` = 0. -/
theorem validatorNeverRaises : Obligations.ValidatorNeverRaises := by
  intro s hs
  cases h : checkDecode s.cfg (sourceChars s) with
  | ok p =>
    obtain ⟨t, ht, ⟨hstatus, -⟩, -⟩ := exec_b58chkValid_of_ok s hs p h
    exact ⟨t, ht, by rw [hstatus], by rw [hstatus]⟩
  | error f =>
    obtain ⟨t, ht, ⟨hstatus, -⟩, -⟩ := exec_b58chkValid_of_error s hs f h
    exact ⟨t, ht, by rw [hstatus], by rw [hstatus]⟩

/-! ### The round trip (R118) -/

theorem sourceBytes_getD (s : State) (k : Nat) (hk : k < s.blen.toNat) :
    (sourceBytes s).getD k 0 = readBbuf s k := by
  simp [sourceBytes, bytesBelow, List.getD_eq_getElem?_getD, List.getElem?_range hk]

/-- What an encoder delivers is what a decoder started next finds as its source. -/
theorem sourceChars_of_delivered {out : List Byte} {s t : State} (h : CharsDelivered out s t) :
    sourceChars t = out := by
  obtain ⟨hlen, hbelow, -⟩ := h
  refine List.ext_getElem (by rw [sourceChars_length, hlen]) fun k hk hout => ?_
  rw [← List.getD_eq_getElem out 0 hout, ← hbelow k hout]
  simp [sourceChars, charsBelow]

/-- Settles O55: the encoder leaves the encoding of the bytes followed by their checksum, and the
tests of decoder and validator undo it. -/
theorem checksumRoundTrip : Obligations.ChecksumRoundTrip := by
  intro s hc hs hlen
  obtain ⟨t, ht, ⟨htstatus, -⟩, hchars, ⟨-, hbytes⟩, ⟨hcfg, -⟩, -⟩ := (b58chkEncResult s hc hs).1 hlen
  have hidle : Idle t := by rw [Idle, htstatus]
  have htests : checkDecode t.cfg (sourceChars t) = .ok (sourceBytes s) := by
    rw [sourceChars_of_delivered hchars, hcfg]
    exact checkDecode_encodeOut_append_checksum s.cfg hc _ (by rwa [sourceBytes_length])
  obtain ⟨u, hu, ⟨hustatus, -⟩, ⟨hublen, hubytes, -⟩, -⟩ :=
    exec_b58chkDec_of_ok t (hcfg ▸ hc) hidle _ htests
  obtain ⟨v, hv, ⟨hvstatus, -⟩, -⟩ := exec_b58chkValid_of_ok t hidle _ htests
  rw [sourceBytes_length] at hublen hubytes
  refine ⟨t, u, v, ht, hu, hv, by rw [hustatus], BitVec.eq_of_toNat_eq hublen, fun k hk => ?_,
    by rw [hvstatus]⟩
  rw [hubytes k hk, sourceBytes_getD s k hk]

end Sys2Proof.Machine
end

section
/-!
PROOFS. The validator beside the checksum decoder (R116): at operation level the same tests decide,
at step level the two run the same steps up to `CHK_CMP`. Settles O51.
-/

namespace Sys2Proof.Machine

/-! ### At operation level -/

theorem causeCode_ne_zero (c : Cause) : causeCode c ≠ 0 := by cases c <;> decide

/-- The answer is 1 exactly on the decoder's success, and both record the same failure. -/
theorem validator_answers_as_decoder (s : State) (hs : Idle s) :
    ∃ u v, exec .b58chkValid s = .next u ∧ exec .b58chkDec s = .next v ∧
      (u.status.valid = true ↔ v.status.err = 0) ∧
      (u.status.valid = false → u.errinfo = v.errinfo) := by
  cases h : checkDecode s.cfg (sourceChars s) with
  | ok p =>
    obtain ⟨u, hu, ⟨hustatus, -⟩, -⟩ := exec_b58chkValid_of_ok s hs p h
    refine ⟨u, _, hu, exec_of_idle .b58chkDec s hs, ?_, ?_⟩
    · simp [hustatus, commandBody, h, statusCompleted, statusRunning]
    · simp [hustatus]
  | error f =>
    obtain ⟨u, hu, ⟨hustatus, huerr⟩, -⟩ := exec_b58chkValid_of_error s hs f h
    obtain ⟨v, hv, ⟨hvstatus, hverr⟩, -⟩ := exec_b58chkDec_of_error s hs f h
    refine ⟨u, v, hu, hv, iff_of_false ?_ ?_, fun _ => huerr.trans hverr.symm⟩
    · rw [hustatus]; exact Bool.false_ne_true
    · rw [hvstatus]; exact causeCode_ne_zero f.cause

/-! ### At step level: the steps that do not depend on the command -/

/-- A state with another command in `OP`. -/
def withOp (o : Code) (s : State) : State := { s with op := o }

section
variable (o : Code) (s : State)

@[simp] theorem withOp_op : (withOp o s).op = o := rfl
@[simp] theorem withOp_ph : (withOp o s).ph = s.ph := rfl
@[simp] theorem withOp_cfg : (withOp o s).cfg = s.cfg := rfl
@[simp] theorem withOp_dp : (withOp o s).dp = s.dp := rfl
@[simp] theorem readCbuf_withOp (k : Nat) : readCbuf (withOp o s) k = readCbuf s k := rfl

/-- A step that either raises or goes on, by a test that does not look at `OP`: where it does not
complete, the test has passed. -/
theorem raise_or_withOp {p : Prop} [Decidable p] (f : Failure) (u : State)
    (hrun : (if p then failWith f s else u).status.busy = true) :
    (if p then failWith f (withOp o s) else withOp o u) =
      withOp o (if p then failWith f s else u) := by
  by_cases hp : p
  · rw [if_pos hp] at hrun
    cases hrun
  · rw [if_neg hp, if_neg hp]

theorem decInitStep_withOp (hrun : (decInitStep s).status.busy = true) :
    decInitStep (withOp o s) = withOp o (decInitStep s) := raise_or_withOp o s _ _ hrun

theorem decScanStep_withOp (hrun : (decScanStep s).status.busy = true) :
    decScanStep (withOp o s) = withOp o (decScanStep s) := by
  by_cases hmore : s.dp.i.toNat < s.dp.m.toNat
  · cases hx : alphaIndex s.cfg (readCbuf s s.dp.i.toNat) with
    | none =>
      rw [decScanStep, if_pos hmore, hx] at hrun
      cases hrun
    | some x =>
      simp only [decScanStep, withOp_dp, withOp_cfg, readCbuf_withOp, hmore, hx, if_true]
      rfl
  · simp only [decScanStep, withOp_dp, hmore, if_false]
    rfl

theorem decZerosStep_withOp : decZerosStep (withOp o s) = withOp o (decZerosStep s) := by
  rw [decZerosStep, decZerosStep, apply_ite (withOp o)]
  rfl

theorem decNextStep_withOp : decNextStep (withOp o s) = withOp o (decNextStep s) := by
  rw [decNextStep, decNextStep, apply_ite (withOp o)]
  rfl

theorem decMulStep_withOp (hrun : (decMulStep s).status.busy = true) :
    decMulStep (withOp o s) = withOp o (decMulStep s) := by
  by_cases hbyte : s.dp.j.toNat < s.dp.wl.toNat
  · simp only [decMulStep, withOp_dp, hbyte, if_true]
    rfl
  · by_cases hcarry : s.dp.carry = 0
    · simp only [decMulStep, withOp_dp, hbyte, hcarry, if_true, if_false]
      rfl
    · simp only [decMulStep, withOp_dp, hbyte, hcarry, if_false] at hrun ⊢
      exact raise_or_withOp o s _ _ hrun

theorem decFitStep_withOp (hrun : (decFitStep s).status.busy = true) :
    decFitStep (withOp o s) = withOp o (decFitStep s) := raise_or_withOp o s _ _ hrun

/-- The end of the padding tells `B58DEC` from the two commands of the checksum layer, and these not
from each other. -/
theorem decPadStep_withOp (ho : o ≠ 2) (hs : s.op ≠ 2) :
    decPadStep (withOp o s) = withOp o (decPadStep s) := by
  simp only [decPadStep, withOp_op, ho, hs, if_false, apply_ite (withOp o)]
  rfl

theorem csH1Step_withOp : csH1Step (withOp o s) = withOp o (csH1Step s) := by
  rw [csH1Step, csH1Step, apply_ite (withOp o)]
  rfl

theorem chkLenStep_withOp (hrun : (chkLenStep s).status.busy = true) :
    chkLenStep (withOp o s) = withOp o (chkLenStep s) := raise_or_withOp o s _ _ hrun

end

/-- A step of the validator that neither completes nor is `CHK_CMP` is the step of any other command
that verifies a checksum, by phase. -/
theorem seqStep_withOp_of_validator (o : Code) (ho : o ≠ 2) (s : State)
    (hfits : phaseFits s.ph 5 s.dp.ret) (hop : s.op = 5) (hcmp : s.ph ≠ .chkCmp)
    (hrun : (seqStep s).status.busy = true) : seqStep (withOp o s) = withOp o (seqStep s) := by
  have hs : s.op ≠ 2 := by rw [hop]; decide
  cases hph : s.ph <;> simp only [seqStep, withOp_ph, hph] at hrun ⊢
  case csInit | csH2 => rfl
  case decInit => exact decInitStep_withOp o s hrun
  case decScan => exact decScanStep_withOp o s hrun
  case decZeros => exact decZerosStep_withOp o s
  case decNext => exact decNextStep_withOp o s
  case decMul => exact decMulStep_withOp o s hrun
  case decFit => exact decFitStep_withOp o s hrun
  case decPad => exact decPadStep_withOp o s ho hs
  case csH1 => exact csH1Step_withOp o s
  case chkLen => exact chkLenStep_withOp o s hrun
  case chkCmp => exact absurd hph hcmp
  case encInit | encCopy | encZeros | encNext | encDiv | encSkip | encEmit | decCommit | csAppend =>
    exact absurd hfits (by simp [hph, phaseFits])

/-- Settles O51: `OP` is looked at where the padding ends, in `CHK_CMP`, and in the report of a
failure; the first does not tell the two commands apart, the others are excluded. -/
theorem validatorAgreesWithDecoder : Obligations.ValidatorAgreesWithDecoder := by
  refine ⟨validator_answers_as_decoder, fun s hinv hop hcmp hrun => ?_⟩
  exact seqStep_withOp_of_validator 4 (by decide) s (hop ▸ hinv.phaseOp) hop hcmp hrun

end Sys2Proof.Machine
end

section
/-!
PROOFS. The two completion steps: the FAIL completion and the precision of a failure (R128), the OK
completion and the steps it ends (R129), and the one command whose failures leave `ERR` = 0 (R130).
Settles O39, O53 and O40.
-/

namespace Sys2Proof.Machine

/-! ### How a command of an idle block ends -/

theorem opcodeOf_inj (i j : Instr) : opcodeOf i = opcodeOf j ↔ i = j := by
  cases i <;> cases j <;> decide

/-- A command accepted in `s` has ended in `t`: by the FAIL completion, or with a report of success
and the given answer in `VALID`. -/
def EndedFrom (valid : Bool) (s t : State) : Prop :=
  (∃ f, t = failWith f s) ∨ ReportsSuccess valid t

section
variable (i : Instr) (s : State)

theorem encodeWith_accept_ended (extra : Nat) (work : List Byte → List Byte) :
    EndedFrom false (accept i s) (encodeWith extra work (accept i s)) := by
  rcases Nat.lt_or_ge s.cfg.nb (s.blen.toNat + extra) with hlt | hle
  · exact .inl ⟨_, encodeWith_of_lt extra work (accept i s) hlt⟩
  · rw [encodeWith_of_le extra work (accept i s) hle]
    exact .inr ⟨rfl, rfl⟩

theorem deliverOrFail_accept_ended (r : Except Failure (List Byte)) :
    EndedFrom false (accept i s) (deliverOrFail r (accept i s)) := by
  cases r with
  | error f => exact .inl ⟨f, rfl⟩
  | ok out => exact .inr ⟨rfl, rfl⟩

theorem answerValid_accept_ended (r : Except Failure (List Byte)) :
    EndedFrom true (accept i s) (answerValid r (accept i s)) := by
  cases r with
  | error f => exact .inl ⟨f, rfl⟩
  | ok out => exact .inr ⟨rfl, rfl⟩

/-- Of the successes, the validator's alone sets `VALID`. -/
theorem commandBody_accept_ended :
    EndedFrom (decide (i = .b58chkValid)) (accept i s) (commandBody i (accept i s)) := by
  cases i with
  | b58enc | b58chkEnc => rw [commandBody]; exact encodeWith_accept_ended _ s _ _
  | b58dec | b58chkDec => rw [commandBody]; exact deliverOrFail_accept_ended _ s _
  | b58chkValid => rw [commandBody]; exact answerValid_accept_ended _ s _

end

theorem exec_idle_ended {i : Instr} {s t : State} (hs : Idle s) (ht : exec i s = .next t) :
    EndedFrom (decide (i = .b58chkValid)) (accept i s) t := by
  obtain rfl : commandBody i (accept i s) = t := by simpa [exec_of_idle i s hs] using ht
  exact commandBody_accept_ended i s

/-! ### The FAIL completion of an accepted command (R128, R130) -/

section
variable (f : Failure) (i : Instr) (s : State)

theorem failWith_accept_blen : (failWith f (accept i s)).blen =
    if i = .b58dec ∨ i = .b58chkDec then 0 else s.blen :=
  if_congr (or_congr (opcodeOf_inj i .b58dec) (opcodeOf_inj i .b58chkDec)) rfl rfl

theorem failWith_accept_clen : (failWith f (accept i s)).clen =
    if i = .b58enc ∨ i = .b58chkEnc then 0 else s.clen :=
  if_congr (or_congr (opcodeOf_inj i .b58enc) (opcodeOf_inj i .b58chkEnc)) rfl rfl

theorem failWith_accept_err : (failWith f (accept i s)).status.err =
    if i = .b58chkValid then 0 else causeCode f.cause :=
  if_congr (opcodeOf_inj i .b58chkValid) rfl rfl

end

/-- Settles O39: a recorded cause excludes the success, so the command ended in the FAIL completion,
which writes no cell and only the destination length. -/
theorem failCompletion : Obligations.FailCompletion := by
  refine ⟨fun f s => ?completion, fun i s t hs ht hcause => ?precise⟩
  case completion =>
    rw [failWith, statusFailed]
    by_cases hop : s.op = 5
    · simp only [hop, if_true, errInfoFailed]
    · simp only [hop, if_false, errInfoFailed]
  case precise =>
    rcases exec_idle_ended hs ht with ⟨f, rfl⟩ | ⟨-, herrinfo⟩
    · exact ⟨fun _ => rfl, fun _ => rfl, failWith_accept_blen f i s, failWith_accept_clen f i s,
        rfl, rfl, rfl, rfl⟩
    · exact absurd (by rw [herrinfo]) hcause

/-- Settles O53: a success has `ERR` = 0 and no cause; a failure records a code that is not 0, and
`ERR` repeats it unless the command is the validator. -/
theorem onlyTheValidatorSwallows : Obligations.OnlyTheValidatorSwallows := by
  intro s t i hs ht
  rcases exec_idle_ended hs ht with ⟨f, rfl⟩ | ⟨hstatus, herrinfo⟩
  · rw [failWith_accept_err]
    exact ⟨fun hi => if_neg hi, fun hi => if_pos hi,
      fun hnone => absurd hnone (causeCode_ne_zero f.cause)⟩
  · rw [hstatus, herrinfo]
    exact ⟨fun _ => rfl, fun _ => rfl, fun _ => rfl⟩

/-! ### The OK completion and the steps it ends (R75, R93, R114, R129) -/

theorem encEmitStep_of_le (s : State) (h : s.dp.nz.toNat + s.dp.dl.toNat ≤ s.dp.k.toNat) :
    encEmitStep s =
      complete { s with clen := BitVec.ofNat 16 (s.dp.nz.toNat + s.dp.dl.toNat) } := by
  rw [encEmitStep, if_neg (by omega), if_neg (by omega)]

theorem decCommitStep_of_le (s : State) (h : s.dp.outl.toNat ≤ s.dp.k.toNat) :
    decCommitStep s = complete { s with blen := BitVec.ofNat 16 s.dp.outl.toNat } :=
  if_neg h.not_gt

theorem checksumAgrees_iff (s : State) : checksumAgrees s = true ↔
    ∀ k, k < 4 → s.sha.ck.getD k 0 = readW s (s.cfg.nb - 4 + k) := by
  simp [checksumAgrees, Config.ckLen]

theorem chkCmpStep_of_validator (s : State) (hop : s.op = 5) (h : checksumAgrees s = true) :
    chkCmpStep s = complete (setValid s) := by
  rw [chkCmpStep, if_pos h, hop, if_neg (by decide)]

/-- Settles O40: each of the three steps is the step rule of its phase, at its last branch. -/
theorem okCompletion : Obligations.OkCompletion := by
  refine ⟨fun _ => rfl, fun s hph hend => ?emit, fun s hph hend => ?commit,
    fun s hph hop hagrees => ?compare⟩
  case emit => rw [seqStep, hph]; exact encEmitStep_of_le s hend
  case commit => rw [seqStep, hph]; exact decCommitStep_of_le s hend
  case compare =>
    rw [seqStep, hph]; exact chkCmpStep_of_validator s hop ((checksumAgrees_iff s).mpr hagrees)

end Sys2Proof.Machine
end

section
/-!
PROOFS. What one step of the sequencer can do, said once (R62, R128, R129), and what follows from it:
the phase graph, the source that is never written, and the completion that comes last. Settles O45,
O46 and O47.
-/

namespace Sys2Proof.Machine

/-! ### The hidden state -/

/-- The hidden registers and buffers have their sizes and hold values in their ranges (R23, R27, R28,
R29). -/
structure ScratchSound (s : State) : Prop where
  workCells : s.w.length = s.cfg.nb
  digitCells : s.d.length = s.cfg.nc
  digitRange : ∀ x ∈ s.d, x.toNat ≤ 57
  remRange : s.dp.rem.toNat ≤ 57
  carryRange : s.dp.carry.toNat ≤ 57
  digestCells : s.sha.dg1.length = 32
  checksumCells : s.sha.ck.length = 4

theorem Inv.scratchSound {s : State} (h : Inv s) : ScratchSound s :=
  ⟨h.workCells, h.digitCells, h.digitRange, h.remRange, h.carryRange, h.digestCells, h.checksumCells⟩

/-- `t` is `s` but for `PH` and the hidden registers and buffers. -/
def OnlyHidden (s t : State) : Prop :=
  t = { s with ph := t.ph, dp := t.dp, sha := t.sha, w := t.w, d := t.d }

theorem readD_le (s : State) (h : ∀ x ∈ s.d, x.toNat ≤ 57) (i : Nat) : (readD s i).toNat ≤ 57 := by
  rw [readD, List.getD_eq_getElem?_getD]
  cases hi : s.d[i]? with
  | none => decide
  | some x => exact h x (List.mem_of_getElem? hi)

theorem digitRange_set {d : List Digit} (hd : ∀ x ∈ d, x.toNat ≤ 57) (i : Nat) {y : Digit}
    (hy : y.toNat ≤ 57) : ∀ x ∈ d.set i y, x.toNat ≤ 57 := fun x hx =>
  (List.mem_or_eq_of_mem_set hx).elim (hd x) fun hxy => hxy ▸ hy

theorem toNat_ofNat_digit {x : Nat} (hx : x < 58) : (BitVec.ofNat 6 x).toNat = x := by
  rw [BitVec.toNat_ofNat, Nat.mod_eq_of_lt (by omega)]

theorem toNat_ofNat_digit_le {x : Nat} (hx : x < 58) : (BitVec.ofNat 6 x).toNat ≤ 57 := by
  rw [toNat_ofNat_digit hx]
  omega

/-! ### The steps of the sequencer -/

/-- What a step of the sequencer can lead to while a command runs: a move on the hidden state along an
edge of the phase graph, the write of one cell of the destination, the FAIL completion, or one of the
three steps the OK completion ends. -/
inductive SeqMove (s : State) : State → Prop
  | hidden {t : State} (keeps : OnlyHidden s t) (sound : ScratchSound t) (running : t.ph ≠ .idle)
      (fits : phaseFits t.ph s.op t.dp.ret) (edge : t.ph ∈ phaseSuccessors s.ph s.op s.dp.ret) :
      SeqMove s t
  | emit (i : Nat) (v : Byte) (k : Index) (hph : s.ph = .encEmit) :
      SeqMove s (writeCbuf i v { s with dp := { s.dp with k := k } })
  | commit (i : Nat) (v : Byte) (k : Index) (hph : s.ph = .decCommit) :
      SeqMove s (writeBbuf i v { s with dp := { s.dp with k := k } })
  | raise (f : Failure) (hf : f.cause ≠ .invalidInputType)
      (edge : .idle ∈ phaseSuccessors s.ph s.op s.dp.ret) : SeqMove s (failWith f s)
  | finishChars (n : BitVec 16) (hph : s.ph = .encEmit) : SeqMove s (complete { s with clen := n })
  | finishBytes (n : BitVec 16) (hph : s.ph = .decCommit) : SeqMove s (complete { s with blen := n })
  | answer (hph : s.ph = .chkCmp) (hop : s.op = 5) : SeqMove s (complete (setValid s))

/-- The phases that follow themselves in the graph. -/
def loops (ph : Phase) : Bool :=
  ph ∈ [.encCopy, .encZeros, .encDiv, .encSkip, .decScan, .decZeros, .decMul, .decPad, .csH1]

theorem mem_phaseSuccessors_self {ph : Phase} (h : loops ph) (op : Code) (ret : Phase) :
    ph ∈ phaseSuccessors ph op ret := by
  cases ph with
  | encCopy | decPad =>
    simp only [phaseSuccessors]
    split <;> simp
  | encZeros | encDiv | encSkip | decScan | decZeros | decMul | csH1 => simp [phaseSuccessors]
  | idle | encInit | encNext | encEmit | decInit | decNext | decFit | decCommit | csInit | csH2
  | csAppend | chkLen | chkCmp => exact absurd h (by decide)

section
variable {s : State} (h : Inv s)
include h

/-- A step that goes on with a loop. -/
theorem SeqMove.loop {t : State} {ph : Phase} (hph : s.ph = ph) (hloop : loops ph)
    (keeps : OnlyHidden s t) (sound : ScratchSound t) (htph : t.ph = s.ph)
    (htret : t.dp.ret = s.dp.ret) : SeqMove s t := by
  refine .hidden keeps sound ?running ?fits ?edge
  case running =>
    rw [htph, hph]
    rintro rfl
    exact absurd hloop (by decide)
  case fits => rw [htph, htret]; exact h.phaseOp
  case edge => rw [htph]; exact mem_phaseSuccessors_self (hph ▸ hloop) _ _

/-! #### The encoder's phases (R69 to R75) -/

theorem encInitStep_move (hph : s.ph = .encInit) : SeqMove s (encInitStep s) := by
  have hop : s.op = 1 ∨ s.op = 3 := by simpa [hph, phaseFits] using h.phaseOp
  by_cases hcap : s.cfg.nb < s.blen.toNat + if s.op = 3 then Config.ckLen else 0
  · rw [encInitStep, if_pos hcap]
    exact .raise _ nofun (by simp [hph, phaseSuccessors])
  · rw [encInitStep, if_neg hcap]
    exact .hidden rfl { h.scratchSound with } nofun hop (by simp [hph, phaseSuccessors])

theorem encCopyStep_move (hph : s.ph = .encCopy) : SeqMove s (encCopyStep s) := by
  have hop : s.op = 1 ∨ s.op = 3 := by simpa [hph, phaseFits] using h.phaseOp
  rw [encCopyStep]
  split_ifs with hi hchk
  · exact .loop h hph rfl rfl { h.scratchSound with workCells := by simp [h.workCells] } rfl rfl
  · exact .hidden rfl { h.scratchSound with } nofun (.inl ⟨rfl, hchk⟩)
      (by simp [hph, phaseSuccessors, hchk])
  · exact .hidden rfl { h.scratchSound with } nofun hop (by simp_all [phaseSuccessors])

theorem encZerosStep_move (hph : s.ph = .encZeros) : SeqMove s (encZerosStep s) := by
  have hop : s.op = 1 ∨ s.op = 3 := by simpa [hph, phaseFits] using h.phaseOp
  rw [encZerosStep]
  split
  · exact .loop h hph rfl rfl { h.scratchSound with } rfl rfl
  · exact .hidden rfl { h.scratchSound with } nofun hop (by simp [hph, phaseSuccessors])

theorem encNextStep_move (hph : s.ph = .encNext) : SeqMove s (encNextStep s) := by
  have hop : s.op = 1 ∨ s.op = 3 := by simpa [hph, phaseFits] using h.phaseOp
  rw [encNextStep]
  split
  · exact .hidden rfl { h.scratchSound with remRange := Nat.zero_le _ } nofun hop
      (by simp [hph, phaseSuccessors])
  · exact .hidden rfl { h.scratchSound with } nofun hop (by simp [hph, phaseSuccessors])

theorem encDivStep_move (hph : s.ph = .encDiv) : SeqMove s (encDivStep s) := by
  have hop : s.op = 1 ∨ s.op = 3 := by simpa [hph, phaseFits] using h.phaseOp
  rw [encDivStep]
  split
  · have hrem : divAcc s % 58 < 58 := Nat.mod_lt _ (by decide)
    exact .loop h hph rfl rfl
      { h.scratchSound with
        workCells := by simp [h.workCells]
        remRange := toNat_ofNat_digit_le hrem } rfl rfl
  · exact .hidden rfl
      { h.scratchSound with
        digitCells := by simp [h.digitCells]
        digitRange := digitRange_set h.digitRange _ h.remRange }
      nofun hop (by simp [hph, phaseSuccessors])

theorem encSkipStep_move (hph : s.ph = .encSkip) : SeqMove s (encSkipStep s) := by
  have hop : s.op = 1 ∨ s.op = 3 := by simpa [hph, phaseFits] using h.phaseOp
  rw [encSkipStep]
  split
  · exact .loop h hph rfl rfl { h.scratchSound with } rfl rfl
  · exact .hidden rfl { h.scratchSound with } nofun hop (by simp [hph, phaseSuccessors])

omit h in
theorem encEmitStep_move (hph : s.ph = .encEmit) : SeqMove s (encEmitStep s) := by
  rw [encEmitStep]
  split_ifs
  · exact .emit _ _ _ hph
  · exact .emit _ _ _ hph
  · exact .finishChars _ hph

/-! #### The decoder's phases (R86 to R93) -/

theorem decInitStep_move (hph : s.ph = .decInit) : SeqMove s (decInitStep s) := by
  have hop : s.op = 2 ∨ s.op = 4 ∨ s.op = 5 := by simpa [hph, phaseFits] using h.phaseOp
  rw [decInitStep]
  split
  · exact .raise _ nofun (by simp [hph, phaseSuccessors])
  · exact .hidden rfl { h.scratchSound with } nofun hop (by simp [hph, phaseSuccessors])

theorem decScanStep_move (hph : s.ph = .decScan) : SeqMove s (decScanStep s) := by
  have hop : s.op = 2 ∨ s.op = 4 ∨ s.op = 5 := by simpa [hph, phaseFits] using h.phaseOp
  rw [decScanStep]
  split
  · split
    · exact .raise _ nofun (by simp [hph, phaseSuccessors])
    · next x hx =>
      obtain ⟨hlt, -⟩ := (alphaIndex_eq_some_iff s.cfg h.config.2.2 _ x).mp hx
      exact .loop h hph rfl rfl
        { h.scratchSound with
          digitCells := by simp [h.digitCells]
          digitRange := digitRange_set h.digitRange _ (toNat_ofNat_digit_le hlt) } rfl rfl
  · exact .hidden rfl { h.scratchSound with } nofun hop (by simp [hph, phaseSuccessors])

theorem decZerosStep_move (hph : s.ph = .decZeros) : SeqMove s (decZerosStep s) := by
  have hop : s.op = 2 ∨ s.op = 4 ∨ s.op = 5 := by simpa [hph, phaseFits] using h.phaseOp
  rw [decZerosStep]
  split
  · exact .loop h hph rfl rfl { h.scratchSound with } rfl rfl
  · exact .hidden rfl { h.scratchSound with } nofun hop (by simp [hph, phaseSuccessors])

theorem decNextStep_move (hph : s.ph = .decNext) : SeqMove s (decNextStep s) := by
  have hop : s.op = 2 ∨ s.op = 4 ∨ s.op = 5 := by simpa [hph, phaseFits] using h.phaseOp
  rw [decNextStep]
  split
  · exact .hidden rfl { h.scratchSound with carryRange := readD_le s h.digitRange _ } nofun hop
      (by simp [hph, phaseSuccessors])
  · exact .hidden rfl { h.scratchSound with } nofun hop (by simp [hph, phaseSuccessors])

theorem decMulStep_move (hph : s.ph = .decMul) : SeqMove s (decMulStep s) := by
  have hop : s.op = 2 ∨ s.op = 4 ∨ s.op = 5 := by simpa [hph, phaseFits] using h.phaseOp
  rw [decMulStep]
  split_ifs
  · have hcarry : mulAcc s / 256 < 58 := by
      have hacc := mulAcc_lt s h.carryRange
      omega
    exact .loop h hph rfl rfl
      { h.scratchSound with
        workCells := by simp [h.workCells]
        carryRange := toNat_ofNat_digit_le hcarry } rfl rfl
  · exact .hidden rfl { h.scratchSound with } nofun hop (by simp [hph, phaseSuccessors])
  · exact .raise _ nofun (by simp [hph, phaseSuccessors])
  · exact .hidden rfl { h.scratchSound with workCells := by simp [h.workCells] } nofun hop
      (by simp [hph, phaseSuccessors])

theorem decFitStep_move (hph : s.ph = .decFit) : SeqMove s (decFitStep s) := by
  have hop : s.op = 2 ∨ s.op = 4 ∨ s.op = 5 := by simpa [hph, phaseFits] using h.phaseOp
  rw [decFitStep]
  split
  · exact .raise _ nofun (by simp [hph, phaseSuccessors])
  · exact .hidden rfl { h.scratchSound with } nofun hop (by simp [hph, phaseSuccessors])

theorem decPadStep_move (hph : s.ph = .decPad) : SeqMove s (decPadStep s) := by
  have hop : s.op = 2 ∨ s.op = 4 ∨ s.op = 5 := by simpa [hph, phaseFits] using h.phaseOp
  rw [decPadStep]
  split_ifs with hj hdec
  · exact .loop h hph rfl rfl { h.scratchSound with workCells := by simp [h.workCells] } rfl rfl
  · exact .hidden rfl { h.scratchSound with } nofun (.inl hdec) (by simp [hph, phaseSuccessors, hdec])
  · exact .hidden rfl { h.scratchSound with } nofun (hop.resolve_left hdec)
      (by simp_all [phaseSuccessors])

omit h in
theorem decCommitStep_move (hph : s.ph = .decCommit) : SeqMove s (decCommitStep s) := by
  rw [decCommitStep]
  split
  · exact .commit _ _ _ hph
  · exact .finishBytes _ hph

/-! #### The phases of the checksum (R104 to R106, R110, R113, R114) -/

theorem csInitStep_move (hph : s.ph = .csInit) : SeqMove s (csInitStep s) := by
  have hlink := h.phaseOp
  rw [hph] at hlink
  exact .hidden rfl { h.scratchSound with } nofun hlink (by simp [csInitStep, hph, phaseSuccessors])

/-- The steps of the unit, for any hash value: the kernel is kept from unfolding the compression. -/
theorem csH1_loop_move (hph : s.ph = .csH1) (hv : Hash) (sb : Digit) :
    SeqMove s { s with sha := { s.sha with h := hv, sb := sb } } :=
  .loop h hph rfl rfl { h.scratchSound with } rfl rfl

theorem csH2_move (hph : s.ph = .csH2) (hv : Hash) :
    SeqMove s { s with
      sha := { s.sha with h := hv, ck := (serialize hv).take Config.ckLen }, ph := s.dp.ret } := by
  have hck : ((serialize hv).take Config.ckLen).length = 4 := by simp [Config.ckLen]
  have hlink : (s.dp.ret = .csAppend ∧ s.op = 3) ∨ (s.dp.ret = .chkCmp ∧ (s.op = 4 ∨ s.op = 5)) := by
    simpa [hph, phaseFits] using h.phaseOp
  refine .hidden rfl { h.scratchSound with checksumCells := hck } ?_ ?_
    (by simp [hph, phaseSuccessors])
  · rcases hlink with ⟨hret, -⟩ | ⟨hret, -⟩ <;> simp [hret]
  · rcases hlink with ⟨hret, hop⟩ | ⟨hret, hop⟩ <;> simpa [hret, phaseFits] using hop

theorem csH1Step_move (hph : s.ph = .csH1) : SeqMove s (csH1Step s) := by
  have hlink := h.phaseOp
  rw [hph] at hlink
  rw [csH1Step]
  split
  · exact csH1_loop_move h hph _ _
  · exact .hidden rfl { h.scratchSound with digestCells := serialize_length _ } nofun hlink
      (by simp [hph, phaseSuccessors])

theorem csH2Step_move (hph : s.ph = .csH2) : SeqMove s (csH2Step s) := csH2_move h hph _

theorem csAppendStep_move (hph : s.ph = .csAppend) : SeqMove s (csAppendStep s) := by
  have hop : s.op = 3 := by simpa [hph, phaseFits] using h.phaseOp
  exact .hidden rfl { h.scratchSound with workCells := by simp [csAppendStep, h.workCells] } nofun
    (.inr hop) (by simp [csAppendStep, hph, phaseSuccessors])

theorem chkLenStep_move (hph : s.ph = .chkLen) : SeqMove s (chkLenStep s) := by
  have hop : s.op = 4 ∨ s.op = 5 := by simpa [hph, phaseFits] using h.phaseOp
  rw [chkLenStep]
  split
  · exact .raise _ nofun (by simp [hph, phaseSuccessors])
  · exact .hidden rfl { h.scratchSound with } nofun (.inr ⟨rfl, hop⟩)
      (by simp [hph, phaseSuccessors])

theorem chkCmpStep_move (hph : s.ph = .chkCmp) : SeqMove s (chkCmpStep s) := by
  have hop : s.op = 4 ∨ s.op = 5 := by simpa [hph, phaseFits] using h.phaseOp
  rw [chkCmpStep]
  split_ifs with hagrees hdec
  · exact .hidden rfl { h.scratchSound with } nofun (.inr hdec)
      (by simp [hph, phaseSuccessors, hdec])
  · exact .answer hph (hop.resolve_left hdec)
  · refine .raise _ nofun ?_
    simp only [hph, phaseSuccessors]
    split <;> simp

/-- The inversion of a sequencer step, phase by phase (R62). -/
theorem seqStep_move (hrun : s.ph ≠ .idle) : SeqMove s (seqStep s) := by
  cases hph : s.ph <;> simp only [seqStep, hph]
  case idle => exact absurd hph hrun
  case encInit => exact encInitStep_move h hph
  case encCopy => exact encCopyStep_move h hph
  case encZeros => exact encZerosStep_move h hph
  case encNext => exact encNextStep_move h hph
  case encDiv => exact encDivStep_move h hph
  case encSkip => exact encSkipStep_move h hph
  case encEmit => exact encEmitStep_move hph
  case decInit => exact decInitStep_move h hph
  case decScan => exact decScanStep_move h hph
  case decZeros => exact decZerosStep_move h hph
  case decNext => exact decNextStep_move h hph
  case decMul => exact decMulStep_move h hph
  case decFit => exact decFitStep_move h hph
  case decPad => exact decPadStep_move h hph
  case decCommit => exact decCommitStep_move hph
  case csInit => exact csInitStep_move h hph
  case csH1 => exact csH1Step_move h hph
  case csH2 => exact csH2Step_move h hph
  case csAppend => exact csAppendStep_move h hph
  case chkLen => exact chkLenStep_move h hph
  case chkCmp => exact chkCmpStep_move h hph

end

/-! ### The phase graph, the source, the completion -/

theorem SeqMove.ph_mem {s t : State} (h : SeqMove s t) :
    t.ph ∈ phaseSuccessors s.ph s.op s.dp.ret := by
  cases h with
  | hidden _ _ _ _ edge => exact edge
  | raise _ _ edge => exact edge
  | emit _ _ _ hph => simp [writeCbuf, hph, phaseSuccessors]
  | commit _ _ _ hph => simp [writeBbuf, hph, phaseSuccessors]
  | finishChars _ hph => simp [hph, phaseSuccessors]
  | finishBytes _ hph => simp [hph, phaseSuccessors]
  | answer hph hop => simp [hph, phaseSuccessors, hop]

/-- Settles O45: every move but those in `IDLE` is along an edge. -/
theorem phaseGraph : Obligations.PhaseGraph := by
  intro s h
  by_cases hidle : s.ph = .idle
  · rw [seqStep_idle s hidle, hidle]
    exact List.mem_singleton_self _
  · exact (seqStep_move h hidle).ph_mem

theorem ph_ne_idle_of_busy {s : State} (h : Inv s) (hbusy : s.status.busy = true) :
    s.ph ≠ .idle := by
  rw [Ne, h.idleIff, hbusy]
  decide

theorem OnlyHidden.sameBytes {s t : State} (h : OnlyHidden s t) : SameBytes s t := by
  rw [h]
  exact ⟨rfl, fun _ => rfl⟩

theorem OnlyHidden.sameChars {s t : State} (h : OnlyHidden s t) : SameChars s t := by
  rw [h]
  exact ⟨rfl, fun _ => rfl⟩

/-- `BBUF` and `BLEN` are written in `DEC_COMMIT`, and `BLEN` in the failure of a decoder. -/
theorem SeqMove.sameBytes {s t : State} (h : SeqMove s t) (hph : s.ph ≠ .decCommit)
    (hop : ¬ (s.op = 2 ∨ s.op = 4)) : SameBytes s t := by
  cases h with
  | hidden keeps => exact keeps.sameBytes
  | raise => exact ⟨if_neg hop, fun _ => rfl⟩
  | commit _ _ _ hcommit | finishBytes _ hcommit => exact absurd hcommit hph
  | emit | finishChars | answer => exact ⟨rfl, fun _ => rfl⟩

/-- `CBUF` and `CLEN` are written in `ENC_EMIT`, and `CLEN` in the failure of an encoder. -/
theorem SeqMove.sameChars {s t : State} (h : SeqMove s t) (hph : s.ph ≠ .encEmit)
    (hop : ¬ (s.op = 1 ∨ s.op = 3)) : SameChars s t := by
  cases h with
  | hidden keeps => exact keeps.sameChars
  | raise => exact ⟨if_neg hop, fun _ => rfl⟩
  | emit _ _ _ hemit | finishChars _ hemit => exact absurd hemit hph
  | commit | finishBytes | answer => exact ⟨rfl, fun _ => rfl⟩

/-- Settles O46: the phase that writes a buffer and the command whose failure empties its length do
not belong to a command that has it as its source. -/
theorem sequencerNeverWritesItsSource : Obligations.SequencerNeverWritesItsSource := by
  intro s h hbusy
  have hmove := seqStep_move h (ph_ne_idle_of_busy h hbusy)
  have hcommit : s.ph = .decCommit → s.op = 2 ∨ s.op = 4 := fun hph => by
    simpa [hph, phaseFits] using h.phaseOp
  have hemit : s.ph = .encEmit → s.op = 1 ∨ s.op = 3 := fun hph => by
    simpa [hph, phaseFits] using h.phaseOp
  have hbytes (hop : ¬ (s.op = 2 ∨ s.op = 4)) : SameBytes s (seqStep s) :=
    hmove.sameBytes (mt hcommit hop) hop
  refine ⟨fun hop => hbytes ?_, fun hop => ?_, fun hop => hbytes ?_⟩
  · rcases hop with hop | hop <;> rw [hop] <;> decide
  · have hnot : ¬ (s.op = 1 ∨ s.op = 3) := by
      rcases hop with hop | hop | hop <;> rw [hop] <;> decide
    exact hmove.sameChars (mt hemit hnot) hnot
  · rw [hop]; decide

/-- A step that does not complete leaves the report and the lengths. -/
theorem SeqMove.completes_or_keeps {s t : State} (h : SeqMove s t) :
    (t.ph = .idle ∧ t.status.busy = false ∧ t.status.done = true ∧ t.bbuf = s.bbuf ∧
      t.cbuf = s.cbuf) ∨
    (t.ph ≠ .idle ∧ t.status = s.status ∧ t.errinfo = s.errinfo ∧ t.blen = s.blen ∧
      t.clen = s.clen) := by
  cases h with
  | hidden keeps _ running => exact .inr ⟨running, by rw [keeps], by rw [keeps], by rw [keeps],
      by rw [keeps]⟩
  | emit _ _ _ hph => exact .inr ⟨by simp [writeCbuf, hph], rfl, rfl, rfl, rfl⟩
  | commit _ _ _ hph => exact .inr ⟨by simp [writeBbuf, hph], rfl, rfl, rfl, rfl⟩
  | raise | finishChars | finishBytes | answer => exact .inl ⟨rfl, rfl, rfl, rfl, rfl⟩

/-- Settles O47: a step completes or keeps the report, and `BUSY` tells which. -/
theorem completionComesLast : Obligations.CompletionComesLast := by
  intro s h hbusy
  rcases (seqStep_move h (ph_ne_idle_of_busy h hbusy)).completes_or_keeps with
    ⟨hph, hdone, hset, hbytes, hchars⟩ | ⟨-, hstatus, hinfo, hblen, hclen⟩
  · exact ⟨fun _ => ⟨hbytes, hchars, hset, hph⟩, fun hrun => absurd hrun (by rw [hdone]; decide)⟩
  · exact ⟨fun hend => absurd hend (by rw [hstatus, hbusy]; decide),
      fun _ => ⟨hstatus, hinfo, hblen, hclen⟩⟩

end Sys2Proof.Machine
end

section
/-!
PROOFS. The invariant: the reset state meets it, every event of the block keeps it, and the error
report it speaks of stays until the next command or reset. Settles O43, O44 and O49.
-/

namespace Sys2Proof.Machine

/-! ### The state operations keep the invariant -/

theorem reportable_causeCode {c : Cause} (hc : c ≠ .invalidInputType) :
    reportable (causeCode c) := by
  cases c with
  | invalidInputType => exact absurd rfl hc
  | invalidCharacter | insufficientLength | checksumMismatch | capacityExceeded | illegalCommand =>
    exact ⟨by decide, by decide⟩

theorem reportable_zero : reportable 0 := ⟨by decide, by decide⟩

theorem reportable_illegal : reportable (causeCode .illegalCommand) := reportable_causeCode nofun

theorem reportable_statusFailed (op : Code) {c : Cause} (hc : c ≠ .invalidInputType) :
    reportable (statusFailed op c).err := by
  rw [statusFailed]
  split
  · exact reportable_zero
  · exact reportable_causeCode hc

/-- The host's side and the lengths are free (R18, R19). -/
theorem Inv.outside {s : State} (h : Inv s) (blen clen : BitVec 16) (script : List ScriptLine)
    (readLog : List Word) (epoch draws : Nat) :
    Inv { s with
      blen := blen, clen := clen, script := script, readLog := readLog, epoch := epoch,
      draws := draws } := { h with }

theorem Inv.indexK {s : State} (h : Inv s) (k : Index) :
    Inv { s with dp := { s.dp with k := k } } :=
  { h with }

theorem Inv.bbuf {s : State} (h : Inv s) {m : Memory} (hm : Memory.wf s.cfg.nb m) :
    Inv { s with bbuf := m } := { h with bbufCells := hm }

theorem Inv.cbuf {s : State} (h : Inv s) {m : Memory} (hm : Memory.wf s.cfg.nc m) :
    Inv { s with cbuf := m } := { h with cbufCells := hm }

theorem Inv.writeBbuf {s : State} (h : Inv s) (i : Nat) (v : Byte) : Inv (writeBbuf i v s) :=
  h.bbuf (Memory.wf_write _ _ i v h.bbufCells)

theorem Inv.writeCbuf {s : State} (h : Inv s) (i : Nat) (v : Byte) : Inv (writeCbuf i v s) :=
  h.cbuf (Memory.wf_write _ _ i v h.cbufCells)

theorem Inv.deliverBytes {s : State} (h : Inv s) (out : List Byte) : Inv (deliverBytes out s) :=
  (h.bbuf (Memory.wf_writeAll _ _ 0 out h.bbufCells)).outside _ _ _ _ _ _

theorem Inv.deliverChars {s : State} (h : Inv s) (out : List Byte) : Inv (deliverChars out s) :=
  (h.cbuf (Memory.wf_writeAll _ _ 0 out h.cbufCells)).outside _ _ _ _ _ _

theorem Inv.accept {s : State} (h : Inv s) (i : Instr) : Inv (accept i s) :=
  { h with
    idleIff := by cases i <;> exact iff_of_false nofun nofun
    runningClear := fun _ => ⟨rfl, rfl⟩
    phaseOp := by cases i <;> simp [Machine.accept, phaseFits, opcodeOf]
    codes := ⟨reportable_zero, reportable_zero⟩
    validClear := nofun }

theorem Inv.illegalCommand {s : State} (h : Inv s) (hidle : Idle s) : Inv (illegalCommand s) :=
  { h with
    idleIff := iff_of_true (h.idleIff.mpr hidle) rfl
    runningClear := nofun
    codes := ⟨reportable_illegal, reportable_illegal⟩
    validClear := nofun }

theorem Inv.failWith {s : State} (h : Inv s) (f : Failure) (hf : f.cause ≠ .invalidInputType) :
    Inv (failWith f s) :=
  { h with
    idleIff := iff_of_true rfl rfl
    runningClear := nofun
    phaseOp := trivial
    codes := ⟨reportable_statusFailed s.op hf, reportable_causeCode hf⟩
    validClear := nofun }

theorem Inv.complete {s : State} (h : Inv s) : Inv (complete s) :=
  { h with
    idleIff := iff_of_true rfl rfl
    runningClear := nofun
    phaseOp := trivial }

theorem Inv.complete_setValid {s : State} (h : Inv s) (hbusy : s.status.busy = true) :
    Inv (Machine.complete (setValid s)) := by
  obtain ⟨hstatus, hinfo⟩ := h.runningClear hbusy
  exact { h with
    idleIff := iff_of_true rfl rfl
    runningClear := nofun
    phaseOp := trivial
    validClear := fun _ => ⟨by simp [statusCompleted, hstatus, statusRunning], hinfo⟩ }

theorem inv_resetOf (c : Config) (hc : c.wf) : Inv (State.resetOf c) where
  config := hc
  bbufCells := Memory.wf_nil _
  cbufCells := Memory.wf_nil _
  workCells := List.length_replicate ..
  digitCells := List.length_replicate ..
  digitRange := fun x hx => by rw [List.eq_of_mem_replicate hx]; decide
  remRange := Nat.zero_le _
  carryRange := Nat.zero_le _
  digestCells := rfl
  checksumCells := rfl
  idleIff := iff_of_true rfl rfl
  runningClear := nofun
  phaseOp := trivial
  codes := ⟨reportable_zero, reportable_zero⟩
  validClear := nofun

/-- Settles O43. -/
theorem soundStateAtReset : Obligations.SoundStateAtReset := inv_resetOf defaultConfig (by decide)

/-! ### The events keep the invariant -/

theorem Inv.onlyHidden {s t : State} (h : Inv s) (hrun : s.ph ≠ .idle) (keeps : OnlyHidden s t)
    (sound : ScratchSound t) (running : t.ph ≠ .idle) (fits : phaseFits t.ph s.op t.dp.ret) :
    Inv t := by
  have hcfg : t.cfg = s.cfg := by rw [keeps]
  obtain ⟨hw, hd, hdigits, hrem, hcarry, hdigest, hck⟩ := sound
  rw [hcfg] at hw hd
  rw [keeps]
  exact { h with
    workCells := hw
    digitCells := hd
    digitRange := hdigits
    remRange := hrem
    carryRange := hcarry
    digestCells := hdigest
    checksumCells := hck
    idleIff := iff_of_false running (mt h.idleIff.mpr hrun)
    phaseOp := fits }

theorem Inv.seqMove {s t : State} (h : Inv s) (hrun : s.ph ≠ .idle) (hmove : SeqMove s t) :
    Inv t := by
  have hbusy : s.status.busy = true := by simpa using mt h.idleIff.mpr hrun
  cases hmove with
  | hidden keeps sound running fits => exact h.onlyHidden hrun keeps sound running fits
  | emit i v k => exact (h.indexK k).writeCbuf i v
  | commit i v k => exact (h.indexK k).writeBbuf i v
  | raise f hf => exact h.failWith f hf
  | finishChars n => exact (h.outside s.blen n _ _ _ _).complete
  | finishBytes n => exact (h.outside n s.clen _ _ _ _).complete
  | answer => exact h.complete_setValid hbusy

theorem Inv.seqStep {s : State} (h : Inv s) : Inv (seqStep s) := by
  by_cases hidle : s.ph = .idle
  · rwa [seqStep_idle s hidle]
  · exact h.seqMove hidle (seqStep_move h hidle)

theorem cause_of_checkDecode_eq_error (c : Config) (t : List Byte) (f : Failure)
    (h : checkDecode c t = .error f) : f.cause ≠ .invalidInputType := by
  cases hraw : decodeRaw c t with
  | error g =>
    obtain rfl := Except.error.inj (h.symm.trans (checkDecode_of_error hraw))
    rcases cause_of_decodeRaw_eq_error c t f hraw with hf | hf <;> rw [hf] <;> decide
  | ok raw =>
    rw [checkDecode_of_ok hraw, verifyRaw] at h
    split_ifs at h
    · cases h; nofun
    · dsimp only at h
      split_ifs at h
      cases h; nofun

theorem Inv.encodeWith {s : State} (h : Inv s) (extra : Nat) (work : List Byte → List Byte) :
    Inv (encodeWith extra work s) := by
  rcases Nat.lt_or_ge s.cfg.nb (s.blen.toNat + extra) with hlt | hle
  · rw [encodeWith_of_lt extra work s hlt]
    exact h.failWith _ nofun
  · rw [encodeWith_of_le extra work s hle]
    exact (h.deliverChars _).complete

theorem Inv.deliverOrFail {s : State} (h : Inv s) (r : Except Failure (List Byte))
    (hr : ∀ f, r = .error f → f.cause ≠ .invalidInputType) : Inv (deliverOrFail r s) := by
  cases r with
  | ok out => exact (h.deliverBytes out).complete
  | error f => exact h.failWith f (hr f rfl)

theorem Inv.answerValid {s : State} (h : Inv s) (hbusy : s.status.busy = true)
    (r : Except Failure (List Byte)) (hr : ∀ f, r = .error f → f.cause ≠ .invalidInputType) :
    Inv (answerValid r s) := by
  cases r with
  | ok out => exact h.complete_setValid hbusy
  | error f => exact h.failWith f (hr f rfl)

theorem Inv.commandBody_accept {s : State} (h : Inv s) (i : Instr) :
    Inv (commandBody i (Machine.accept i s)) := by
  have ha := h.accept i
  cases i <;> rw [commandBody]
  case b58enc | b58chkEnc => exact ha.encodeWith _ _
  case b58dec =>
    refine ha.deliverOrFail _ fun f hf => ?_
    rcases cause_of_decodeRaw_eq_error _ _ f hf with hc | hc <;> rw [hc] <;> decide
  case b58chkDec => exact ha.deliverOrFail _ fun f hf => cause_of_checkDecode_eq_error _ _ f hf
  case b58chkValid => exact ha.answerValid rfl _ fun f hf => cause_of_checkDecode_eq_error _ _ f hf

theorem Inv.writeCommand {s : State} (h : Inv s) (hidle : Idle s) (v : Word) :
    Inv (writeCommand v s) := by
  rw [Machine.writeCommand]
  split
  · exact h.accept _
  · exact h.illegalCommand hidle

theorem Inv.hostWrite {s : State} (h : Inv s) (a : PortIndex) (v : Word) :
    Inv (hostWrite a v s) := by
  cases hbusy : s.status.busy with
  | true => rwa [hostWrite_of_busy a v s hbusy]
  | false =>
    cases hp : portSlot s.cfg a with
    | cmd => rw [hostWrite_of_cmd hbusy v hp]; exact h.writeCommand hbusy v
    | blen => rw [hostWrite_of_blen hbusy v hp]; exact h.outside _ _ _ _ _ _
    | clen => rw [hostWrite_of_clen hbusy v hp]; exact h.outside _ _ _ _ _ _
    | bbuf i => rw [hostWrite_of_bbuf hbusy v hp]; exact h.writeBbuf i _
    | cbuf i => rw [hostWrite_of_cbuf hbusy v hp]; exact h.writeCbuf i _
    | status | errinfo | cap | reserved => rwa [hostWrite_of_unwritable a v s (by simp [hp])]

theorem Inv.hostRead {s : State} (h : Inv s) (a : PortIndex) : Inv (hostRead a s) :=
  h.outside _ _ _ _ _ _

theorem Inv.hostAccess {s : State} (h : Inv s) (x : Access) : Inv (hostAccess x s) := by
  cases x with
  | write a v => exact h.hostWrite a v
  | read a => exact h.hostRead a

theorem Inv.waitLine {s : State} (h : Inv s) : Inv (waitLine s) := by
  rw [Machine.waitLine]
  split
  · exact h.hostRead _
  · exact Inv.seqStep ((h.hostRead _).outside _ _ _ _ _ _)

theorem Inv.resetBlock {s : State} (h : Inv s) : Inv (resetBlock s) :=
  (inv_resetOf s.cfg h.config).outside _ _ _ _ _ _

theorem Inv.lostAccess {s : State} (h : Inv s) (x : Option Access) : Inv (lostAccess x s) := by
  match x with
  | none | some (.write _ _) => exact h
  | some (.read _) => exact h.outside _ _ _ _ _ _

theorem Inv.exec {s t : State} (h : Inv s) {i : Instr} (ht : exec i s = .next t) : Inv t := by
  cases hbusy : s.status.busy with
  | true =>
    rw [exec_of_busy i s hbusy] at ht
    cases ht
    exact h
  | false =>
    rw [exec_of_idle i s hbusy] at ht
    cases ht
    exact h.commandBody_accept i

theorem Inv.commandLine {s t : State} (h : Inv s) {v : Word} (ht : commandLine v s = .next t) :
    Inv t := by
  rw [Machine.commandLine] at ht
  split at ht
  · cases ht
    exact h
  · next hidle =>
    split at ht
    · exact h.exec ht
    · cases ht
      exact h.illegalCommand (by simpa using hidle)

theorem Inv.scriptLine {s t : State} (h : Inv s) {l : ScriptLine} (ht : scriptLine l s = .next t) :
    Inv t := by
  cases l with
  | access x => cases ht; exact h.hostAccess x
  | sequencer => cases ht; exact h.seqStep
  | wait => cases ht; exact h.waitLine
  | run v => exact (h.outside s.blen s.clen (.wait :: s.script) _ _ _).commandLine ht
  | rst x => cases ht; exact h.resetBlock.lostAccess x

/-- Settles O44: each event of the two agents keeps the invariant. -/
theorem everyStepKeepsSoundState : Obligations.EveryStepKeepsSoundState := by
  intro s t h ht
  cases hs : s.script with
  | nil =>
    rw [step_nil s hs] at ht
    cases ht
    exact h.seqStep
  | cons l rest =>
    rw [step_cons s l rest hs] at ht
    exact (h.outside s.blen s.clen rest _ _ _).scriptLine ht

/-! ### The report stays (60_exceptions.md section 4) -/

theorem portSlot_ne_cmd (c : Config) {a : PortIndex} (ha : a ≠ 0) : portSlot c a ≠ .cmd := by
  have hne : a.toNat ≠ 0 := fun h => ha (BitVec.eq_of_toNat_eq h)
  rw [portSlot, if_neg hne]
  split_ifs <;> nofun

/-- A write to any index but that of `CMD` leaves the report. -/
theorem hostWrite_keeps_report (a : PortIndex) (ha : a ≠ 0) (v : Word) (s : State) :
    (hostWrite a v s).status = s.status ∧ (hostWrite a v s).errinfo = s.errinfo := by
  cases hbusy : s.status.busy with
  | true => rw [hostWrite_of_busy a v s hbusy]; exact ⟨rfl, rfl⟩
  | false =>
    cases hp : portSlot s.cfg a with
    | cmd => exact absurd hp (portSlot_ne_cmd s.cfg ha)
    | blen => rw [hostWrite_of_blen hbusy v hp]; exact ⟨rfl, rfl⟩
    | clen => rw [hostWrite_of_clen hbusy v hp]; exact ⟨rfl, rfl⟩
    | bbuf i => rw [hostWrite_of_bbuf hbusy v hp]; exact ⟨rfl, rfl⟩
    | cbuf i => rw [hostWrite_of_cbuf hbusy v hp]; exact ⟨rfl, rfl⟩
    | status | errinfo | cap | reserved =>
      rw [hostWrite_of_unwritable a v s (by simp [hp])]; exact ⟨rfl, rfl⟩

theorem waitLine_keeps_report (s : State) (hph : s.ph = .idle) :
    (waitLine s).status = s.status ∧ (waitLine s).errinfo = s.errinfo := by
  rw [waitLine]
  split
  · exact ⟨rfl, rfl⟩
  · rw [seqStep_idle]
    · exact ⟨rfl, rfl⟩
    · exact hph

/-- Settles O49: of the lines left, a write goes to another index, and the sequencer of an idle block
does nothing. -/
theorem errorReportStays : Obligations.ErrorReportStays := by
  intro s t h hidle hwrite hrun hrst ht
  have hph : s.ph = .idle := h.idleIff.mpr hidle
  cases hs : s.script with
  | nil =>
    rw [step_nil s hs, seqStep_idle s hph] at ht
    cases ht
    exact ⟨rfl, rfl⟩
  | cons l rest =>
    rw [step_cons s l rest hs] at ht
    cases l with
    | access x =>
      cases ht
      cases x with
      | write a v =>
        exact hostWrite_keeps_report a (by rintro rfl; exact hwrite v rest hs) v _
      | read a => exact ⟨rfl, rfl⟩
    | sequencer =>
      cases ht
      rw [seqStep_idle]
      · exact ⟨rfl, rfl⟩
      · exact hph
    | wait => cases ht; exact waitLine_keeps_report _ hph
    | run v => exact absurd hs (hrun v rest)
    | rst x => exact absurd hs (hrst x rest)

end Sys2Proof.Machine
end

section
/-!
PROOFS. The two passes over a number in `W`: division by 58 from its head (R67, R73) and
multiplication by 58 from its tail (R84, R90). Settles O30 and O32.
-/

namespace Sys2Proof.Machine

/-! ### Sections of a byte sequence -/

theorem be2nat_cons (b : Byte) (l : List Byte) :
    be2nat (b :: l) = b.toNat * 256 ^ l.length + be2nat l := by
  rw [← List.singleton_append, be2nat_append]
  simp [be2nat]

/-- A section with its first byte apart. -/
theorem take_drop_eq_cons (w : List Byte) {j n : Nat} (hj : j < n) (hn : n ≤ w.length) :
    (w.take n).drop j = w.getD j 0 :: (w.take n).drop (j + 1) := by
  have hlt : j < (w.take n).length := by rw [List.length_take]; omega
  rw [List.drop_eq_getElem_cons hlt, List.getElem_take, List.getD_eq_getElem w 0 (by omega)]

/-- A section with its last byte apart. -/
theorem take_drop_eq_concat (w : List Byte) {a e : Nat} (ha : a ≤ e) (he : e < w.length) :
    (w.take (e + 1)).drop a = (w.take e).drop a ++ [w.getD e 0] := by
  rw [List.take_succ_eq_append_getElem he, List.getD_eq_getElem w 0 he,
    List.drop_append_of_le_length (by rw [List.length_take]; omega)]

theorem getD_eq_of_take_eq {u v : List Byte} {j : Nat} (h : u.take (j + 1) = v.take (j + 1)) :
    u.getD j 0 = v.getD j 0 := by
  have hj := congrArg (·[j]?) h
  simp only [List.getElem?_take_of_lt (Nat.lt_succ_self j)] at hj
  rw [List.getD_eq_getElem?_getD, List.getD_eq_getElem?_getD, hj]

theorem take_eq_of_take_eq {u v : List Byte} {i j : Nat} (hij : i ≤ j) (h : u.take j = v.take j) :
    u.take i = v.take i := by
  have hi := congrArg (List.take i) h
  rwa [List.take_take, List.take_take, Nat.min_eq_left hij] at hi

theorem getD_eq_of_drop_eq {u v : List Byte} {j : Nat} (h : u.drop j = v.drop j) :
    u.getD j 0 = v.getD j 0 := by
  have hj := congrArg (·[0]?) h
  simp only [List.getElem?_drop, Nat.add_zero] at hj
  rw [List.getD_eq_getElem?_getD, List.getD_eq_getElem?_getD, hj]

theorem drop_eq_of_drop_eq {u v : List Byte} {i j : Nat} (hij : i ≤ j) (h : u.drop i = v.drop i) :
    u.drop j = v.drop j := by
  have hj := congrArg (List.drop (j - i)) h
  rwa [List.drop_drop, List.drop_drop, Nat.add_sub_cancel' hij] at hj

theorem getD_set_self (w : List Byte) {j : Nat} (hj : j < w.length) (b : Byte) :
    (w.set j b).getD j 0 = b := by
  rw [List.getD_eq_getElem?_getD, List.getElem?_set_self hj, Option.getD_some]

/-- An index register below another does not wrap when it is incremented (R23). -/
theorem toNat_add_one {a b : Index} (h : a.toNat < b.toNat) : (a + 1).toNat = a.toNat + 1 := by
  have hb := b.isLt
  rw [BitVec.toNat_add, show (1 : Index).toNat = 1 from rfl, Nat.mod_eq_of_lt (by omega)]

/-! ### The division pass (R67, R73) -/

/-- The number a division pass divides from byte `J` on: the remainder so far, then the bytes. -/
def dividend (s : State) : Nat :=
  s.dp.rem.toNat * 256 ^ (s.dp.n.toNat - s.dp.j.toNat) +
    be2nat ((s.w.take s.dp.n.toNat).drop s.dp.j.toNat)

/-- `t` is `s` at the end of its division pass. -/
structure Divided (s t : State) : Prop where
  keeps : t = { s with w := t.w, dp := { s.dp with rem := t.dp.rem, j := t.dp.j } }
  quotient : be2nat ((t.w.take s.dp.n.toNat).drop s.dp.j.toNat) = dividend s / 58
  remainder : t.dp.rem.toNat = dividend s % 58
  atEnd : t.dp.j = s.dp.n
  before : t.w.take s.dp.j.toNat = s.w.take s.dp.j.toNat
  after : t.w.drop s.dp.n.toNat = s.w.drop s.dp.n.toNat
  cells : t.w.length = s.w.length

/-- The state after one byte of a division pass. -/
def dividedOnce (s : State) : State :=
  { s with
    w := s.w.set s.dp.j.toNat (BitVec.ofNat 8 (divAcc s / 58))
    dp := { s.dp with rem := BitVec.ofNat 6 (divAcc s % 58), j := s.dp.j + 1 } }

section
variable {s : State} (hrem : s.dp.rem.toNat ≤ 57) (hj : s.dp.j.toNat < s.dp.n.toNat)
  (hn : s.dp.n.toNat ≤ s.w.length)

theorem seqStep_encDiv_of_lt (hph : s.ph = .encDiv) (hj : s.dp.j.toNat < s.dp.n.toNat) :
    seqStep s = dividedOnce s := by
  simp only [seqStep, hph, encDivStep, if_pos hj, dividedOnce]

include hj hn in
/-- The accumulator is the head of the number left to divide. -/
theorem dividend_eq : dividend s =
    divAcc s * 256 ^ (s.dp.n.toNat - (s.dp.j.toNat + 1)) +
      be2nat ((s.w.take s.dp.n.toNat).drop (s.dp.j.toNat + 1)) := by
  have hlen : ((s.w.take s.dp.n.toNat).drop (s.dp.j.toNat + 1)).length =
      s.dp.n.toNat - (s.dp.j.toNat + 1) := by
    rw [List.length_drop, List.length_take, Nat.min_eq_left hn]
  have hpow : s.dp.n.toNat - s.dp.j.toNat = s.dp.n.toNat - (s.dp.j.toNat + 1) + 1 := by omega
  rw [dividend, take_drop_eq_cons s.w hj hn, be2nat_cons, hlen, hpow, pow_succ, divAcc, readW]
  ring

include hj in
/-- The bytes a step has not reached are those that were there. -/
theorem dividend_dividedOnce : dividend (dividedOnce s) =
    divAcc s % 58 * 256 ^ (s.dp.n.toNat - (s.dp.j.toNat + 1)) +
      be2nat ((s.w.take s.dp.n.toNat).drop (s.dp.j.toNat + 1)) := by
  have hr : (BitVec.ofNat 6 (divAcc s % 58)).toNat = divAcc s % 58 :=
    toNat_ofNat_digit (Nat.mod_lt _ (by decide))
  simp only [dividend, dividedOnce, toNat_add_one hj, hr, List.take_set,
    List.drop_set_of_lt (Nat.lt_succ_self s.dp.j.toNat)]

include hj hn in
/-- The number left to divide splits at the accumulator. -/
theorem dividend_eq_of_dividedOnce : dividend s =
    58 * (divAcc s / 58 * 256 ^ (s.dp.n.toNat - (s.dp.j.toNat + 1))) + dividend (dividedOnce s) := by
  rw [dividend_eq hj hn, dividend_dividedOnce hj]
  conv_lhs => rw [← Nat.div_add_mod (divAcc s) 58]
  ring

theorem divided_refl (hrem : s.dp.rem.toNat ≤ 57) (hj : s.dp.j.toNat = s.dp.n.toNat) :
    Divided s s := by
  have hempty : (s.w.take s.dp.n.toNat).drop s.dp.n.toNat = [] :=
    List.drop_eq_nil_of_le (List.length_take_le _ _)
  have hdividend : dividend s = s.dp.rem.toNat := by simp [dividend, hj, hempty]
  exact {
    keeps := rfl
    quotient := by rw [hj, hempty, hdividend, be2nat_nil]; omega
    remainder := by rw [hdividend]; omega
    atEnd := BitVec.eq_of_toNat_eq hj
    before := rfl
    after := rfl
    cells := rfl }

include hrem hj hn in
theorem Divided.of_dividedOnce {t : State} (h : Divided (dividedOnce s) t) : Divided s t := by
  have hnext : (dividedOnce s).dp.j.toNat = s.dp.j.toNat + 1 := toNat_add_one hj
  have hjlen : s.dp.j.toNat < s.w.length := by omega
  obtain ⟨hkeeps, hquotient, hremainder, hend, hbefore, hafter, hcells⟩ := h
  rw [hnext] at hquotient hbefore
  have hcells' : t.w.length = s.w.length := hcells.trans (List.length_set ..)
  have hbyte : (t.w.getD s.dp.j.toNat 0).toNat = divAcc s / 58 := by
    have hacc := divAcc_lt s hrem
    rw [getD_eq_of_take_eq hbefore, dividedOnce, getD_set_self s.w hjlen, BitVec.toNat_ofNat,
      Nat.mod_eq_of_lt (by omega)]
  have hlen : ((t.w.take s.dp.n.toNat).drop (s.dp.j.toNat + 1)).length =
      s.dp.n.toNat - (s.dp.j.toNat + 1) := by
    rw [List.length_drop, List.length_take, Nat.min_eq_left (by omega)]
  exact {
    keeps := hkeeps
    quotient := by
      rw [take_drop_eq_cons t.w hj (by omega), be2nat_cons, hlen, hbyte,
        dividend_eq_of_dividedOnce hj hn, Nat.mul_add_div (by decide)]
      exact congrArg _ hquotient
    remainder := by rw [hremainder, dividend_eq_of_dividedOnce hj hn, Nat.mul_add_mod]
    atEnd := hend
    before := (take_eq_of_take_eq (Nat.le_succ _) hbefore).trans (List.take_set_of_le le_rfl)
    after := hafter.trans (List.drop_set_of_lt hj)
    cells := hcells' }

end

/-- The pass, byte by byte. -/
theorem divided_seqIter (m : Nat) : ∀ s : State, s.ph = .encDiv → s.dp.rem.toNat ≤ 57 →
    s.dp.n.toNat ≤ s.w.length → s.dp.j.toNat + m = s.dp.n.toNat → Divided s (seqIter m s) := by
  induction m with
  | zero => exact fun s _ hrem _ hj => divided_refl hrem hj
  | succ m ih =>
    intro s hph hrem hn hm
    have hj : s.dp.j.toNat < s.dp.n.toNat := by omega
    have hnext : (dividedOnce s).dp.j.toNat = s.dp.j.toNat + 1 := toNat_add_one hj
    rw [seqIter_succ, seqStep_encDiv_of_lt hph hj]
    refine .of_dividedOnce hrem hj hn (ih (dividedOnce s) hph ?_ ?_ ?_)
    · exact toNat_ofNat_digit_le (Nat.mod_lt _ (by decide))
    · exact hn.trans_eq (List.length_set ..).symm
    · rw [hnext]; exact (Nat.add_right_comm ..).trans hm

/-- Settles O30. -/
theorem divisionPassDivides : Obligations.DivisionPassDivides := by
  intro s hph hrem hj hn
  have h := divided_seqIter (s.dp.n.toNat - s.dp.j.toNat) s hph hrem hn (Nat.add_sub_cancel' hj)
  exact ⟨h.quotient, h.remainder, h.atEnd, h.before, h.after, h.keeps⟩

/-! ### The multiply pass (R84, R90) -/

/-- `t` is `s` at the end of its multiply pass. -/
structure Multiplied (s t : State) : Prop where
  keeps : t = { s with w := t.w, dp := { s.dp with carry := t.dp.carry, j := t.dp.j } }
  product : be2nat ((t.w.take (s.cfg.nb - s.dp.j.toNat)).drop (s.cfg.nb - s.dp.wl.toNat)) +
      t.dp.carry.toNat * 256 ^ (s.dp.wl.toNat - s.dp.j.toNat) =
    be2nat ((s.w.take (s.cfg.nb - s.dp.j.toNat)).drop (s.cfg.nb - s.dp.wl.toNat)) * 58 +
      s.dp.carry.toNat
  carryRange : t.dp.carry.toNat ≤ 57
  atEnd : t.dp.j = s.dp.wl
  before : t.w.take (s.cfg.nb - s.dp.wl.toNat) = s.w.take (s.cfg.nb - s.dp.wl.toNat)
  after : t.w.drop (s.cfg.nb - s.dp.j.toNat) = s.w.drop (s.cfg.nb - s.dp.j.toNat)
  cells : t.w.length = s.w.length

/-- The state after one byte of a multiply pass. -/
def multipliedOnce (s : State) : State :=
  { s with
    w := s.w.set (s.cfg.nb - 1 - s.dp.j.toNat) (BitVec.ofNat 8 (mulAcc s % 256))
    dp := { s.dp with carry := BitVec.ofNat 6 (mulAcc s / 256), j := s.dp.j + 1 } }

section
variable {s : State} (hcarry : s.dp.carry.toNat ≤ 57) (hj : s.dp.j.toNat < s.dp.wl.toNat)
  (hwl : s.dp.wl.toNat ≤ s.cfg.nb) (hw : s.w.length = s.cfg.nb)

theorem seqStep_decMul_of_lt (hph : s.ph = .decMul) (hj : s.dp.j.toNat < s.dp.wl.toNat) :
    seqStep s = multipliedOnce s := by
  simp only [seqStep, hph, decMulStep, if_pos hj, multipliedOnce]

theorem multiplied_refl (hcarry : s.dp.carry.toNat ≤ 57) (hj : s.dp.j.toNat = s.dp.wl.toNat) :
    Multiplied s s := by
  have hempty : (s.w.take (s.cfg.nb - s.dp.wl.toNat)).drop (s.cfg.nb - s.dp.wl.toNat) = [] :=
    List.drop_eq_nil_of_le (List.length_take_le _ _)
  exact {
    keeps := rfl
    product := by simp [hj, hempty]
    carryRange := hcarry
    atEnd := BitVec.eq_of_toNat_eq hj
    before := rfl
    after := rfl
    cells := rfl }

include hcarry hj hwl hw in
theorem Multiplied.of_multipliedOnce {t : State} (h : Multiplied (multipliedOnce s) t) :
    Multiplied s t := by
  have hnext : (multipliedOnce s).dp.j.toNat = s.dp.j.toNat + 1 := toNat_add_one hj
  have hacc := mulAcc_lt s hcarry
  have hnewCarry : (multipliedOnce s).dp.carry.toNat = mulAcc s / 256 :=
    toNat_ofNat_digit (by omega)
  obtain ⟨hkeeps, hproduct, hrange, hend, hbefore, hafter, hcells⟩ := h
  rw [hnext] at hproduct hafter
  rw [hnewCarry] at hproduct
  simp only [multipliedOnce] at hproduct hbefore hafter
  have hcells' : t.w.length = s.w.length := hcells.trans (List.length_set ..)
  -- `e` is the index of the byte the step has written
  obtain ⟨e, he⟩ : ∃ e, s.cfg.nb - (s.dp.j.toNat + 1) = e := ⟨_, rfl⟩
  have he' : s.cfg.nb - 1 - s.dp.j.toNat = e := by omega
  have he1 : s.cfg.nb - s.dp.j.toNat = e + 1 := by omega
  have hpow : s.dp.wl.toNat - s.dp.j.toNat = s.dp.wl.toNat - (s.dp.j.toNat + 1) + 1 := by omega
  rw [he, he'] at hproduct hafter
  rw [List.take_set_of_le le_rfl] at hproduct
  have hbyte : (t.w.getD e 0).toNat = mulAcc s % 256 := by
    rw [getD_eq_of_drop_eq hafter, getD_set_self s.w (by omega), BitVec.toNat_ofNat]
    exact Nat.mod_mod _ _
  have hmul : mulAcc s = (s.w.getD e 0).toNat * 58 + s.dp.carry.toNat := by rw [mulAcc, readW, he']
  exact {
    keeps := hkeeps
    product := by
      rw [he1, take_drop_eq_concat t.w (by omega) (by omega),
        take_drop_eq_concat s.w (by omega) (by omega), be2nat_concat, be2nat_concat, hbyte, hpow,
        pow_succ]
      have hsplit := Nat.div_add_mod (mulAcc s) 256
      linarith
    carryRange := hrange
    atEnd := hend
    before := hbefore.trans (List.take_set_of_le (by omega))
    after := by
      rw [he1, drop_eq_of_drop_eq (Nat.le_succ e) hafter, List.drop_set_of_lt (Nat.lt_succ_self e)]
    cells := hcells' }

end

/-- The pass, byte by byte. -/
theorem multiplied_seqIter (m : Nat) : ∀ s : State, s.ph = .decMul → s.dp.carry.toNat ≤ 57 →
    s.dp.wl.toNat ≤ s.cfg.nb → s.w.length = s.cfg.nb → s.dp.j.toNat + m = s.dp.wl.toNat →
    Multiplied s (seqIter m s) := by
  induction m with
  | zero => exact fun s _ hcarry _ _ hj => multiplied_refl hcarry hj
  | succ m ih =>
    intro s hph hcarry hwl hw hm
    have hj : s.dp.j.toNat < s.dp.wl.toNat := by omega
    have hnext : (multipliedOnce s).dp.j.toNat = s.dp.j.toNat + 1 := toNat_add_one hj
    have hacc := mulAcc_lt s hcarry
    rw [seqIter_succ, seqStep_decMul_of_lt hph hj]
    refine .of_multipliedOnce hcarry hj hwl hw (ih (multipliedOnce s) hph ?_ hwl ?_ ?_)
    · exact toNat_ofNat_digit_le (by omega)
    · exact (List.length_set ..).trans hw
    · rw [hnext]; exact (Nat.add_right_comm ..).trans hm

/-- Settles O32. -/
theorem multiplyPassMultiplies : Obligations.MultiplyPassMultiplies := by
  intro s hph hcarry hj hwl hw
  have h := multiplied_seqIter (s.dp.wl.toNat - s.dp.j.toNat) s hph hcarry hwl hw
    (Nat.add_sub_cancel' hj)
  exact ⟨h.product, h.atEnd, h.before, h.after, h.keeps⟩

end Sys2Proof.Machine
end

section
/-!
PROOFS. Runs of the sequencer, and the encoder's loop: a trip divides the number by 58 and stores the
remainder (R76), and the trips together store its digits. Settles O31.
-/

namespace Sys2Proof.Machine

/-! ### Runs of the sequencer -/

/-- The sequencer's steps lead from `s` to `t`. -/
def Leads (s t : State) : Prop := ∃ n, seqIter n s = t

theorem leads_seqIter (n : Nat) (s : State) : Leads s (seqIter n s) := ⟨n, rfl⟩

theorem Leads.refl (s : State) : Leads s s := ⟨0, rfl⟩

theorem Leads.step {s t : State} (h : seqStep s = t) : Leads s t := ⟨1, h⟩

theorem Leads.trans {s t u : State} (h : Leads s t) (h' : Leads t u) : Leads s u := by
  obtain ⟨m, rfl⟩ := h
  obtain ⟨n, rfl⟩ := h'
  exact ⟨m + n, seqIter_add m n s⟩

theorem Inv.seqIter {s : State} (h : Inv s) (n : Nat) : Inv (seqIter n s) := by
  induction n generalizing s with
  | zero => exact h
  | succ n ih => exact ih h.seqStep

theorem Leads.inv {s t : State} (h : Leads s t) (hinv : Inv s) : Inv t := by
  obtain ⟨n, rfl⟩ := h
  exact hinv.seqIter n

theorem OnlyHidden.refl (s : State) : OnlyHidden s s := rfl

theorem OnlyHidden.trans {s t u : State} (h : OnlyHidden s t) (h' : OnlyHidden t u) :
    OnlyHidden s u := by
  rw [OnlyHidden] at h
  rw [h] at h'
  exact h'

/-! ### The zeros at the head of the number -/

theorem take_eq_replicate_of_getD {w : List Byte} {j : Nat} (hj : j ≤ w.length)
    (hzero : ∀ i, i < j → w.getD i 0 = 0) : w.take j = List.replicate j 0 := by
  refine List.ext_getElem (by simpa using hj) fun i hi _ => ?_
  rw [List.length_take] at hi
  have hget := hzero i (by omega)
  rw [List.getD_eq_getElem w 0 (by omega)] at hget
  rw [List.getElem_take, List.getElem_replicate, hget]

/-- Zero bytes at the head do not count. -/
theorem be2nat_take_eq_drop {w : List Byte} {j n : Nat} (hj : j ≤ n) (hn : n ≤ w.length)
    (hzero : ∀ i, i < j → w.getD i 0 = 0) : be2nat (w.take n) = be2nat ((w.take n).drop j) := by
  rw [← List.take_append_drop j (w.take n), List.take_take, Nat.min_eq_left hj,
    take_eq_replicate_of_getD (hj.trans hn) hzero, be2nat_replicate_zero_append,
    List.drop_left' (List.length_replicate ..)]

theorem be2nat_take_eq_zero {w : List Byte} {n : Nat} (hn : n ≤ w.length)
    (hzero : ∀ i, i < n → w.getD i 0 = 0) : be2nat (w.take n) = 0 := by
  rw [take_eq_replicate_of_getD hn hzero, be2nat_replicate_zero]

theorem be2nat_take_pos {w : List Byte} {j n : Nat} (hj : j < n) (hn : n ≤ w.length)
    (hzero : ∀ i, i < j → w.getD i 0 = 0) (hstop : w.getD j 0 ≠ 0) : 0 < be2nat (w.take n) := by
  have hbyte : 0 < (w.getD j 0).toNat :=
    Nat.pos_of_ne_zero fun h => hstop (BitVec.eq_of_toNat_eq h)
  rw [be2nat_take_eq_drop hj.le hn hzero, take_drop_eq_cons w hj hn, be2nat_cons]
  positivity

theorem getD_eq_zero_of_take_eq {u v : List Byte} {j : Nat} (h : u.take j = v.take j)
    (hzero : ∀ i, i < j → v.getD i 0 = 0) : ∀ i, i < j → u.getD i 0 = 0 := fun i hi =>
  (getD_eq_of_take_eq (take_eq_of_take_eq hi h)).trans (hzero i hi)

theorem toNat_add_one_of_lt {a : Index} {n : Nat} (hn : n ≤ 4096) (h : a.toNat < n) :
    (a + 1).toNat = a.toNat + 1 := by
  rw [BitVec.toNat_add, show (1 : Index).toNat = 1 from rfl, Nat.mod_eq_of_lt (by omega)]

/-! ### Phase `ENC_SKIP` (R74) -/

/-- `START` of `s` is at the head of the number `W[0..N)`: only zeros stand before it, and it is at
the end or at a byte that is not 0. -/
structure AtHead (s : State) : Prop where
  inside : s.dp.start.toNat ≤ s.dp.n.toNat
  zeros : ∀ i, i < s.dp.start.toNat → readW s i = 0
  stop : s.dp.start.toNat = s.dp.n.toNat ∨ readW s s.dp.start.toNat ≠ 0

theorem seqStep_encSkip_of_stop {s : State} (hph : s.ph = .encSkip)
    (h : ¬ (s.dp.start.toNat < s.dp.n.toNat ∧ readW s s.dp.start.toNat = 0)) :
    seqStep s = { s with ph := .encNext } := by
  simp only [seqStep, hph, encSkipStep, if_neg h]

/-- The phase moves `START` to the head of the number. -/
theorem skip_leads (m : Nat) : ∀ s : State, s.ph = .encSkip → s.dp.start.toNat + m = s.dp.n.toNat →
    (∀ i, i < s.dp.start.toNat → readW s i = 0) →
    ∃ start, let t := { s with ph := .encNext, dp := { s.dp with start := start } }
      Leads s t ∧ AtHead t ∧ s.dp.start.toNat ≤ start.toNat := by
  induction m with
  | zero =>
    intro s hph hm hzero
    have hstep := seqStep_encSkip_of_stop hph fun h => absurd h.1 (by omega)
    exact ⟨s.dp.start, .step hstep, ⟨hm.le, hzero, .inl hm⟩, le_rfl⟩
  | succ m ih =>
    intro s hph hm hzero
    have hlt : s.dp.start.toNat < s.dp.n.toNat := by omega
    by_cases hbyte : readW s s.dp.start.toNat = 0
    · have hnext := toNat_add_one hlt
      have hstep : seqStep s = { s with dp := { s.dp with start := s.dp.start + 1 } } := by
        simp only [seqStep, hph, encSkipStep]
        exact if_pos ⟨hlt, hbyte⟩
      obtain ⟨start, hleads, hhead, hle⟩ :=
        ih { s with dp := { s.dp with start := s.dp.start + 1 } } hph
          (by dsimp only; omega)
          (fun i hi => by
            rcases Nat.lt_succ_iff_lt_or_eq.mp (hnext ▸ hi) with h | rfl
            · exact hzero i h
            · exact hbyte)
      exact ⟨start, (Leads.step hstep).trans hleads, hhead, by dsimp only at hle; omega⟩
    · have hstep := seqStep_encSkip_of_stop hph fun h => hbyte h.2
      exact ⟨s.dp.start, .step hstep, ⟨hlt.le, hzero, .inr hbyte⟩, le_rfl⟩

/-! ### A trip of the loop (R76) -/

/-- `t` is `s` after a trip of the encoder's loop. -/
structure EncTrip (s t : State) : Prop where
  keeps : t = { s with
    w := t.w
    d := t.d
    dp := { s.dp with rem := t.dp.rem, j := t.dp.j, dl := t.dp.dl, start := t.dp.start } }
  number : be2nat (t.w.take s.dp.n.toNat) = be2nat (s.w.take s.dp.n.toNat) / 58
  count : t.dp.dl.toNat = s.dp.dl.toNat + 1
  digit : t.d = s.d.set s.dp.dl.toNat (BitVec.ofNat 6 (be2nat (s.w.take s.dp.n.toNat) % 58))
  head : AtHead t
  later : s.dp.start.toNat ≤ t.dp.start.toNat

/-- The state in which a trip enters its division pass. -/
def startDivision (s : State) : State :=
  { s with dp := { s.dp with rem := 0, j := s.dp.start }, ph := .encDiv }

theorem dividend_startDivision {s : State} (hstart : s.dp.start.toNat ≤ s.dp.n.toNat)
    (hn : s.dp.n.toNat ≤ s.w.length) (hzero : ∀ i, i < s.dp.start.toNat → readW s i = 0) :
    dividend (startDivision s) = be2nat (s.w.take s.dp.n.toNat) := by
  rw [be2nat_take_eq_drop hstart hn hzero]
  simp [dividend, startDivision]

/-- The state in which a trip leaves its division pass, the remainder stored. -/
def storeRemainder (s : State) : State :=
  { s with
    d := s.d.set s.dp.dl.toNat s.dp.rem
    dp := { s.dp with dl := s.dp.dl + 1 }
    ph := .encSkip }

theorem seqStep_encDiv_of_eq {s : State} (hph : s.ph = .encDiv) (hj : s.dp.j = s.dp.n) :
    seqStep s = storeRemainder s := by
  simp only [seqStep, hph, encDivStep, hj, lt_irrefl, if_false, storeRemainder]

theorem encTrip_leads {s : State} (hinv : Inv s) (hph : s.ph = .encNext)
    (hstart : s.dp.start.toNat < s.dp.n.toNat) (hn : s.dp.n.toNat ≤ s.cfg.nb)
    (hdl : s.dp.dl.toNat < s.cfg.nc) (hzero : ∀ i, i < s.dp.start.toNat → readW s i = 0) :
    ∃ t, Leads s t ∧ EncTrip s t := by
  have hnw : s.dp.n.toNat ≤ s.w.length := hn.trans_eq hinv.workCells.symm
  have henter : seqStep s = startDivision s := by
    simp only [seqStep, hph, encNextStep, if_pos hstart, startDivision]
  obtain ⟨u, hu⟩ : ∃ u, seqIter (s.dp.n.toNat - s.dp.start.toNat) (startDivision s) = u := ⟨_, rfl⟩
  have hpass : Divided (startDivision s) u :=
    hu ▸ divided_seqIter _ (startDivision s) rfl (Nat.zero_le _) hnw (Nat.add_sub_cancel' hstart.le)
  have hdividend := dividend_startDivision hstart.le hnw hzero
  obtain ⟨hkeeps, hquotient, hremainder, hend, hbefore, -, hcells⟩ := hpass
  rw [hdividend] at hquotient hremainder
  have hzero' : ∀ i, i < s.dp.start.toNat → u.w.getD i 0 = 0 :=
    getD_eq_zero_of_take_eq hbefore hzero
  have huph : u.ph = .encDiv := by rw [hkeeps]; rfl
  have hun : u.dp.n = s.dp.n := by rw [hkeeps]; rfl
  have hustart : u.dp.start = s.dp.start := by rw [hkeeps]; rfl
  have hudl : u.dp.dl = s.dp.dl := by rw [hkeeps]; rfl
  have hud : u.d = s.d := by rw [hkeeps]; rfl
  have hstore := seqStep_encDiv_of_eq huph (hend.trans hun.symm)
  obtain ⟨start, hskip, hhead, hlater⟩ :=
    skip_leads (s.dp.n.toNat - s.dp.start.toNat) (storeRemainder u) rfl
      (by simp only [storeRemainder, hun, hustart]; omega)
      (fun i hi => hzero' i (by simpa only [storeRemainder, hustart] using hi))
  refine ⟨_, (Leads.step henter).trans (.trans ⟨_, hu⟩ ((Leads.step hstore).trans hskip)), ?_⟩
  exact {
    keeps := by
      rw [hkeeps]
      simp only [startDivision, storeRemainder, hph]
    number :=
      (be2nat_take_eq_drop hstart.le (hnw.trans_eq hcells.symm) hzero').trans hquotient
    count := by
      simp only [storeRemainder, hudl]
      exact toNat_add_one_of_lt hinv.config.2.1.2 hdl
    digit := by
      simp only [storeRemainder, hudl, hud, ← hremainder, BitVec.ofNat_toNat, BitVec.setWidth_eq]
    head := hhead
    later := by simpa only [storeRemainder, hustart] using hlater }

/-- Settles O31. -/
theorem encoderTripDividesByFiftyEight : Obligations.EncoderTripDividesByFiftyEight := by
  intro s hinv hph hstart hn hdl hzero
  obtain ⟨t, ⟨k, rfl⟩, hkeeps, hnumber, hcount, hdigit, ⟨hinside, hzeros, hstop⟩, hlater⟩ :=
    encTrip_leads hinv hph hstart hn hdl hzero
  have htn : (seqIter k s).dp.n = s.dp.n := by rw [hkeeps]
  rw [htn] at hinside hstop
  exact ⟨k, by rw [hkeeps, hph], htn, by rw [hkeeps], hnumber, hcount, hdigit, hlater, hinside,
    hzeros, hstop⟩

end Sys2Proof.Machine
end

section
/-!
PROOFS. The checksum unit (R104 to R106): block by block the first hash, then the second and its
first four bytes. Settles O38.
-/

namespace Sys2Proof.Machine

/-! ### The hash after some blocks (R102) -/

/-- The hash value after the first `k` blocks of a message. -/
def hashAfter (msg : List Byte) (k : Nat) : Hash :=
  (List.range k).foldl (fun h b => compress h (shaBlock msg b)) shaIV

theorem hashAfter_succ (msg : List Byte) (k : Nat) :
    hashAfter msg (k + 1) = compress (hashAfter msg k) (shaBlock msg k) := by
  rw [hashAfter, List.range_succ, List.foldl_append, List.foldl_cons, List.foldl_nil, ← hashAfter]

theorem sha256_eq_hashAfter (msg : List Byte) :
    sha256 msg = serialize (hashAfter msg (shaBlocks msg.length)) := by
  rw [sha256, hashAfter]

theorem checksum_eq_take (msg : List Byte) :
    checksum msg = (serialize (compress shaIV (digestBlock (sha256 msg)))).take Config.ckLen := by
  rw [checksum, sha256_of_length_32 _ (sha256_length msg)]

theorem unitMessage_length {s : State} (h : s.dp.mb.toNat + s.dp.ml.toNat ≤ s.w.length) :
    (unitMessage s).length = s.dp.ml.toNat := by
  rw [unitMessage, List.length_take, List.length_drop]
  omega

/-! ### The first application (R104, R105) -/

/-- The unit with `k` blocks of its message hashed. -/
def hashing (k : Nat) (s : State) : State :=
  { s with
    sha := { s.sha with
      h := hashAfter (unitMessage s) k
      sb := BitVec.ofNat 6 k
      snb := BitVec.ofNat 6 (shaBlocks s.dp.ml.toNat) }
    ph := .csH1 }

theorem seqStep_csInit {s : State} (hph : s.ph = .csInit) : seqStep s = hashing 0 s := by
  simp only [seqStep, hph]
  rfl

/-- The blocks of a message the unit is given fit its counter (R104). -/
theorem shaBlocks_lt {len : Nat} (h : len ≤ 2730) : shaBlocks len < 2 ^ 6 := by
  rw [shaBlocks]
  omega

theorem toNat_ofNat_six {k : Nat} (h : k < 2 ^ 6) : (BitVec.ofNat 6 k).toNat = k :=
  (BitVec.toNat_ofNat k 6).trans (Nat.mod_eq_of_lt h)

theorem seqStep_hashing_of_lt {s : State} (hml : s.dp.ml.toNat ≤ 2730) {k : Nat}
    (hk : k < shaBlocks s.dp.ml.toNat) : seqStep (hashing k s) = hashing (k + 1) s := by
  have hcap := shaBlocks_lt hml
  have hsb : (hashing k s).sha.sb.toNat = k := toNat_ofNat_six (by omega)
  have hsnb : (hashing k s).sha.snb.toNat = shaBlocks s.dp.ml.toNat := toNat_ofNat_six hcap
  have hstep : seqStep (hashing k s) = csH1Step (hashing k s) := by simp only [seqStep, hashing]
  have hnext : BitVec.ofNat 6 (k + 1) = BitVec.ofNat 6 k + 1 := BitVec.ofNat_add k 1
  rw [hstep, csH1Step, hsb, hsnb, if_pos hk]
  simp only [hashing, unitMessage, hashAfter_succ, hnext]

theorem seqIter_hashing {s : State} (hph : s.ph = .csInit) (hml : s.dp.ml.toNat ≤ 2730) {k : Nat}
    (hk : k ≤ shaBlocks s.dp.ml.toNat) : seqIter (k + 1) s = hashing k s := by
  induction k with
  | zero => exact seqStep_csInit hph
  | succ k ih => rw [seqIter_succ_eq_seqStep, ih (by omega), seqStep_hashing_of_lt hml (by omega)]

/-! ### The second application (R105, R106) -/

/-- The unit with the first hash in `DG1`. -/
def digested (s : State) : State :=
  { hashing (shaBlocks s.dp.ml.toNat) s with
    sha := { (hashing (shaBlocks s.dp.ml.toNat) s).sha with
      dg1 := serialize (hashAfter (unitMessage s) (shaBlocks s.dp.ml.toNat)) }
    ph := .csH2 }

theorem seqStep_hashing_of_eq {s : State} :
    seqStep (hashing (shaBlocks s.dp.ml.toNat) s) = digested s := by
  simp only [seqStep, hashing, csH1Step, lt_irrefl, if_false, digested]

/-- The unit's registers when it returns to `RET`. -/
def checksumUnit (s : State) : ShaUnit :=
  { (digested s).sha with
    h := compress shaIV (digestBlock (digested s).sha.dg1)
    ck := (serialize (compress shaIV (digestBlock (digested s).sha.dg1))).take Config.ckLen }

/-- The state in which the unit returns. -/
def checksummed (s : State) : State := { s with sha := checksumUnit s, ph := s.dp.ret }

theorem seqStep_digested (s : State) : seqStep (digested s) = checksummed s := by
  simp only [seqStep, digested, csH2Step, checksummed, checksumUnit, hashing]

section
variable {s : State}

theorem seqIter_checksum (hph : s.ph = .csInit) (hml : s.dp.ml.toNat ≤ 2730) :
    seqIter (shaBlocks s.dp.ml.toNat + 3) s = checksummed s := by
  rw [seqIter_succ_eq_seqStep, seqIter_succ_eq_seqStep, seqIter_hashing hph hml le_rfl,
    seqStep_hashing_of_eq, seqStep_digested]

variable (hfit : s.dp.mb.toNat + s.dp.ml.toNat ≤ s.w.length)
include hfit

theorem checksumUnit_dg1 : (checksumUnit s).dg1 = sha256 (unitMessage s) := by
  rw [sha256_eq_hashAfter, unitMessage_length hfit, checksumUnit, digested]

theorem checksumUnit_ck : (checksumUnit s).ck = checksum (unitMessage s) := by
  rw [checksum_eq_take, ← checksumUnit_dg1 hfit, checksumUnit]

end

/-- Settles O38. -/
theorem checksumUnitComputesTheChecksum : Obligations.ChecksumUnitComputesTheChecksum := by
  intro s hph hml hfit
  have hrun : seqIter ((s.dp.ml.toNat + 8) / 64 + 1 + 3) s = checksummed s :=
    seqIter_checksum hph hml
  simp only [hrun]
  exact ⟨rfl, checksumUnit_dg1 hfit, checksumUnit_ck hfit, rfl⟩

end Sys2Proof.Machine
end

section
/-!
PROOFS. What no command touches at operation level, and what it means that the sequencer computes a
command: its run ends in the state of the command's rule but for the hidden scratch state
(assumption 1). Settles O20.
-/

namespace Sys2Proof.Machine

/-! ### What a command's rule leaves (R30) -/

theorem encodeWith_keeps (extra : Nat) (work : List Byte → List Byte) (s : State) :
    SameOutside s (encodeWith extra work s) ∧ SameScratch s (encodeWith extra work s) := by
  rcases Nat.lt_or_ge s.cfg.nb (s.blen.toNat + extra) with hlt | hle
  · rw [encodeWith_of_lt extra work s hlt]
    exact ⟨⟨rfl, rfl, rfl, rfl, rfl⟩, rfl, rfl, rfl, rfl⟩
  · rw [encodeWith_of_le extra work s hle]
    exact ⟨⟨rfl, rfl, rfl, rfl, rfl⟩, rfl, rfl, rfl, rfl⟩

theorem deliverOrFail_keeps (r : Except Failure (List Byte)) (s : State) :
    SameOutside s (deliverOrFail r s) ∧ SameScratch s (deliverOrFail r s) := by
  cases r <;> exact ⟨⟨rfl, rfl, rfl, rfl, rfl⟩, rfl, rfl, rfl, rfl⟩

theorem answerValid_keeps (r : Except Failure (List Byte)) (s : State) :
    SameOutside s (answerValid r s) ∧ SameScratch s (answerValid r s) := by
  cases r <;> exact ⟨⟨rfl, rfl, rfl, rfl, rfl⟩, rfl, rfl, rfl, rfl⟩

theorem commandBody_keeps (i : Instr) (s : State) :
    SameOutside s (commandBody i s) ∧ SameScratch s (commandBody i s) := by
  cases i <;> rw [commandBody]
  case b58enc | b58chkEnc => exact encodeWith_keeps _ _ s
  case b58dec | b58chkDec => exact deliverOrFail_keeps _ s
  case b58chkValid => exact answerValid_keeps _ s

/-- Settles O20: a busy block answers its own state, an idle one that of the rule on the accepted
state, which differs from it in neither part. -/
theorem commandsLeaveTheRest : Obligations.CommandsLeaveTheRest := by
  intro i s t ht
  cases hbusy : s.status.busy with
  | true =>
    rw [exec_of_busy i s hbusy] at ht
    cases ht
    exact ⟨⟨rfl, rfl, rfl, rfl, rfl⟩, rfl, rfl, rfl, rfl⟩
  | false =>
    rw [exec_of_idle i s hbusy] at ht
    cases ht
    exact commandBody_keeps i (accept i s)

/-! ### Runs that end in the state of a rule -/

/-- The sequencer's run from `s` ends in `IDLE`, in the state `r` but for the hidden scratch state. -/
def Ends (s r : State) : Prop :=
  ∃ t, Leads s t ∧ t.ph = .idle ∧ t = { r with dp := t.dp, sha := t.sha, w := t.w, d := t.d }

theorem Leads.ends {s t r : State} (h : Leads s t) : Ends t r → Ends s r := by
  rintro ⟨u, hu, hrest⟩
  exact ⟨u, h.trans hu, hrest⟩

/-- A run that takes the FAIL completion (R128). -/
theorem ends_failWith {s t : State} (h : OnlyHidden s t) {f : Failure}
    (hstep : seqStep t = failWith f t) : Ends t (failWith f s) := by
  refine ⟨failWith f t, .step hstep, rfl, ?_⟩
  rw [h]
  rfl

theorem decodeCommand_portWord (i : Instr) :
    decodeCommand (commandOfPortWord (portWord i)) = .ok i := by
  cases i <;> rfl

theorem hostWrite_portWord (i : Instr) {s : State} (hs : Idle s) :
    hostWrite 0 (portWord i) s = accept i s := by
  rw [hostWrite_cmd _ s hs, writeCommand_of_ok _ s i (decodeCommand_portWord i)]

/-- The form of the refinement statements, from the run's end. -/
theorem exec_eq_of_ends (i : Instr) {s : State} (hs : Idle s)
    (h : Ends (accept i s) (commandBody i (accept i s))) :
    ∃ n, (seqIter n (hostWrite 0 (portWord i) s)).ph = .idle ∧
      exec i s = .next (withScratchOf s (seqIter n (hostWrite 0 (portWord i) s))) := by
  obtain ⟨t, ⟨n, rfl⟩, hph, hend⟩ := h
  obtain ⟨-, hdp, hsha, hw, hd⟩ := commandBody_keeps i (accept i s)
  rw [hostWrite_portWord i hs, exec_of_idle i s hs]
  refine ⟨n, hph, congrArg _ ?_⟩
  rw [hend, withScratchOf, ← accept_dp i s, ← accept_sha i s, ← accept_w i s, ← accept_d i s,
    ← hdp, ← hsha, ← hw, ← hd]

end Sys2Proof.Machine
end

section
/-!
PROOFS. The encoder at step level: the snapshot of the source and its checksum in `W`, the digits in
`D`, the characters in `CBUF` (R69 to R75, R110). Settles O57.
-/

namespace Sys2Proof.Machine

/-! ### A cell behind those already written -/

theorem take_set_succ {α : Type} (l : List α) {i : Nat} (hi : i < l.length) (x : α) :
    (l.set i x).take (i + 1) = l.take i ++ [x] := by
  rw [List.take_succ_eq_append_getElem (by simpa using hi), List.take_set_of_le le_rfl,
    List.getElem_set_self]

theorem bytesBelow_succ (s : State) (i : Nat) :
    bytesBelow s (i + 1) = bytesBelow s i ++ [readBbuf s i] := by
  simp [bytesBelow, List.range_succ]

theorem toNat_ofNat_index {n : Nat} (h : n ≤ 4096) : (BitVec.ofNat 13 n).toNat = n := by
  rw [BitVec.toNat_ofNat, Nat.mod_eq_of_lt (by omega)]

/-! ### Phase `ENC_COPY` (R70) -/

/-- The snapshot, byte by byte. -/
theorem encCopy_leads (m : Nat) : ∀ s : State, s.ph = .encCopy →
    s.dp.i.toNat + m = s.dp.n0.toNat → s.dp.n0.toNat ≤ s.w.length →
    s.w.take s.dp.i.toNat = bytesBelow s s.dp.i.toNat →
    ∃ w, Leads s { s with w := w, dp := { s.dp with i := s.dp.n0 } } ∧ w.length = s.w.length ∧
      w.take s.dp.n0.toNat = bytesBelow s s.dp.n0.toNat := by
  induction m with
  | zero =>
    intro s _ hm _ hw
    have hi : s.dp.i = s.dp.n0 := BitVec.eq_of_toNat_eq hm
    refine ⟨s.w, ?_, rfl, hi ▸ hw⟩
    rw [← hi]
    exact .refl s
  | succ m ih =>
    intro s hph hm hn hw
    have hlt : s.dp.i.toNat < s.dp.n0.toNat := by omega
    have hnext := toNat_add_one hlt
    have hstep : seqStep s = { s with
        w := s.w.set s.dp.i.toNat (readBbuf s s.dp.i.toNat)
        dp := { s.dp with i := s.dp.i + 1 } } := by
      simp only [seqStep, hph, encCopyStep, if_pos hlt]
    obtain ⟨w, hleads, hlen, htake⟩ := ih { s with
        w := s.w.set s.dp.i.toNat (readBbuf s s.dp.i.toNat), dp := { s.dp with i := s.dp.i + 1 } }
      hph (by dsimp only; omega) (hn.trans_eq (List.length_set ..).symm)
      (by
        simp only [hnext]
        rw [take_set_succ s.w (by omega), hw]
        exact (bytesBelow_succ s _).symm)
    exact ⟨w, (Leads.step hstep).trans hleads, hlen.trans (List.length_set ..), htake⟩

/-! ### The work sequence in `W` (R69, R70, R110) -/

/-- `t` is `s` with a work sequence in `W`, ready for the conversion. -/
structure WorkReady (work : List Byte) (s t : State) : Prop where
  keeps : OnlyHidden s t
  phase : t.ph = .encZeros
  index : t.dp.i = 0
  count : t.dp.n.toNat = work.length
  bytes : t.w.take work.length = work

/-- The state in which the source is copied. -/
def startCopy (extra : Nat) (s : State) : State :=
  { s with
    dp := { s.dp with
      n0 := BitVec.ofNat 13 s.blen.toNat, n := BitVec.ofNat 13 (s.blen.toNat + extra), i := 0 }
    ph := .encCopy }

/-- The state in which the source has been copied to `W`. -/
def copied (extra : Nat) (w : List Byte) (s : State) : State :=
  { startCopy extra s with
    w := w
    dp := { (startCopy extra s).dp with i := (startCopy extra s).dp.n0 } }

section
variable {s : State} (h : Inv s) (hph : s.ph = .encInit)

theorem seqStep_encInit_of_lt {extra : Nat} (hph : s.ph = .encInit)
    (hextra : (if s.op = 3 then Config.ckLen else 0) = extra)
    (hlt : s.cfg.nb < s.blen.toNat + extra) : seqStep s = failWith capacityFailure s := by
  simp only [seqStep, hph, encInitStep, hextra, if_pos hlt]

include h in
theorem copied_leads {extra : Nat} (hph : s.ph = .encInit)
    (hextra : (if s.op = 3 then Config.ckLen else 0) = extra)
    (hfit : s.blen.toNat + extra ≤ s.cfg.nb) :
    ∃ w, Leads s (copied extra w s) ∧ w.length = s.cfg.nb ∧ w.take s.blen.toNat = sourceBytes s := by
  obtain ⟨⟨-, hnb⟩, -, -⟩ := h.config
  have hstep : seqStep s = startCopy extra s := by
    simp only [seqStep, hph, encInitStep, hextra, if_neg hfit.not_gt, startCopy]
  have hn0 : (startCopy extra s).dp.n0.toNat = s.blen.toNat := toNat_ofNat_index (by omega)
  obtain ⟨w, hleads, hlen, htake⟩ := encCopy_leads s.blen.toNat (startCopy extra s) rfl
    ((Nat.zero_add _).trans hn0.symm)
    (by rw [hn0]; exact (by omega : _ ≤ _).trans_eq h.workCells.symm)
    rfl
  rw [hn0] at htake
  exact ⟨w, (Leads.step hstep).trans hleads, hlen.trans h.workCells, htake⟩

include h hph in
/-- The plain encoder converts the source. -/
theorem workReady_of_b58enc (hop : s.op = 1) (hfit : s.blen.toNat ≤ s.cfg.nb) :
    ∃ t, Leads s t ∧ WorkReady (sourceBytes s) s t := by
  have hop3 : ¬ s.op = 3 := by rw [hop]; decide
  obtain ⟨⟨-, hnb⟩, -, -⟩ := h.config
  obtain ⟨w, hleads, -, htake⟩ := copied_leads h hph (extra := 0) (if_neg hop3) hfit
  have hstep : seqStep (copied 0 w s) =
      { copied 0 w s with dp := { (copied 0 w s).dp with i := 0 }, ph := .encZeros } := by
    simp only [seqStep, copied, startCopy, encCopyStep, lt_irrefl, if_false, hop3]
  refine ⟨_, hleads.trans (.step hstep), rfl, rfl, rfl, ?_, ?_⟩
  · rw [sourceBytes_length]
    exact toNat_ofNat_index (by omega)
  · rw [sourceBytes_length]
    exact htake

/-- The state in which the checksum unit is started on the copied source. -/
def startChecksum (s : State) : State :=
  { s with dp := { s.dp with mb := 0, ml := s.dp.n0, ret := .csAppend }, ph := .csInit }

/-- Four bytes written one by one behind a list. -/
theorem take_set_four {w : List Byte} {n : Nat} (hn : n + 4 ≤ w.length) (a b c d : Byte) :
    ((((w.set n a).set (n + 1) b).set (n + 2) c).set (n + 3) d).take (n + 4) =
      w.take n ++ [a, b, c, d] := by
  rw [take_set_succ _ (by simp; omega), take_set_succ _ (by simp; omega),
    take_set_succ _ (by simp; omega), take_set_succ _ (by omega)]
  simp

theorem eq_of_length_four {l : List Byte} (hl : l.length = 4) :
    [l.getD 0 0, l.getD 1 0, l.getD 2 0, l.getD 3 0] = l := by
  match l, hl with
  | [_, _, _, _], _ => rfl

include h hph in
/-- The checksum encoder converts the source and its checksum. -/
theorem workReady_of_b58chkEnc (hop : s.op = 3) (hfit : s.blen.toNat + 4 ≤ s.cfg.nb) :
    ∃ t, Leads s t ∧ WorkReady (sourceBytes s ++ checksum (sourceBytes s)) s t := by
  obtain ⟨⟨-, hnb⟩, -, -⟩ := h.config
  obtain ⟨w, hleads, hlen, htake⟩ := copied_leads h hph (extra := 4) (if_pos hop) hfit
  have hn0 : (copied 4 w s).dp.n0.toNat = s.blen.toNat := toNat_ofNat_index (by omega)
  obtain ⟨u, hu⟩ : ∃ u, startChecksum (copied 4 w s) = u := ⟨_, rfl⟩
  have hstart : seqStep (copied 4 w s) = u := by
    rw [← hu]
    simp only [seqStep, copied, startCopy, encCopyStep, lt_irrefl, if_false, hop, if_true,
      startChecksum]
  have huph : u.ph = .csInit := hu ▸ rfl
  have huret : u.dp.ret = .csAppend := hu ▸ rfl
  have humb : u.dp.mb.toNat = 0 := hu ▸ rfl
  have huml : u.dp.ml.toNat = s.blen.toNat := hu ▸ hn0
  have hun0 : u.dp.n0.toNat = s.blen.toNat := hu ▸ hn0
  have huw : u.w = w := hu ▸ rfl
  have hmsg : unitMessage u = sourceBytes s := by
    rw [unitMessage, humb, huml, huw, List.drop_zero, htake]
  have hunit : seqIter (shaBlocks u.dp.ml.toNat + 3) u = checksummed u :=
    seqIter_checksum huph (by omega)
  have hck : (checksumUnit u).ck = checksum (sourceBytes s) := by
    rw [checksumUnit_ck (by rw [humb, huml, huw, hlen]; omega), hmsg]
  have happend : seqStep (checksummed u) = csAppendStep (checksummed u) := by
    simp only [seqStep, checksummed, huret]
  refine ⟨_, hleads.trans ((Leads.step hstart).trans (.trans ⟨_, hunit⟩ (.step happend))),
    ?keeps, rfl, rfl, ?count, ?bytes⟩
  case keeps =>
    refine OnlyHidden.trans (t := u) ?_ rfl
    rw [← hu]
    rfl
  case count =>
    rw [List.length_append, sourceBytes_length, checksum_length]
    subst hu
    exact toNat_ofNat_index (by omega)
  case bytes =>
    rw [List.length_append, sourceBytes_length, checksum_length]
    simp only [csAppendStep, checksummed, hun0, huw, hck]
    rw [take_set_four (by omega), htake, eq_of_length_four (checksum_length _)]

end

/-! ### The digits in `D` (R72 to R74, R76) -/

/-- `t` is `s` with the digits of `v` behind those in `D`, ready for the output. -/
structure DigitsStored (v : Nat) (s t : State) : Prop where
  keeps : OnlyHidden s t
  phase : t.ph = .encEmit
  index : t.dp.k = 0
  zeros : t.dp.nz = s.dp.nz
  count : t.dp.dl.toNat = s.dp.dl.toNat + (digits58 v).length
  digits : t.d.take t.dp.dl.toNat =
    s.d.take s.dp.dl.toNat ++ ((digits58 v).map (BitVec.ofNat 6)).reverse

theorem digitsStored_of_end {s : State} (h : Inv s) (hph : s.ph = .encNext)
    (hn : s.dp.n.toNat ≤ s.cfg.nb) (hhead : AtHead s) (hend : s.dp.start.toNat = s.dp.n.toNat) :
    ∃ t, Leads s t ∧ DigitsStored (be2nat (s.w.take s.dp.n.toNat)) s t := by
  have hzero := be2nat_take_eq_zero (hn.trans_eq h.workCells.symm) (hend ▸ hhead.zeros)
  have hstep : seqStep s = { s with dp := { s.dp with k := 0 }, ph := .encEmit } := by
    simp only [seqStep, hph, encNextStep, hend, lt_irrefl, if_false]
  refine ⟨_, .step hstep, rfl, rfl, rfl, rfl, ?_, ?_⟩
  · rw [hzero]; rfl
  · rw [hzero, digits58_zero, List.map_nil, List.reverse_nil, List.append_nil]

theorem DigitsStored.of_trip {v : Nat} {s t u : State} (h : Inv s)
    (hv : be2nat (s.w.take s.dp.n.toNat) = v) (hpos : 0 < v) (hdl : s.dp.dl.toNat < s.cfg.nc)
    (htrip : EncTrip s t) (hrest : DigitsStored (v / 58) t u) : DigitsStored v s u := by
  obtain ⟨hkeeps, -, hcount, hdigit, -, -⟩ := htrip
  obtain ⟨hkeeps', hphase, hindex, hzeros, hcount', hdigits⟩ := hrest
  have hhidden : OnlyHidden s t := by rw [hkeeps]; rfl
  exact {
    keeps := hhidden.trans hkeeps'
    phase := hphase
    index := hindex
    zeros := hzeros.trans (by rw [hkeeps])
    count := by
      rw [hcount', hcount, digits58_of_pos v hpos, List.length_append, List.length_singleton]
      omega
    digits := by
      rw [hdigits, hcount, hdigit, hv, take_set_succ _ (by rw [h.digitCells]; exact hdl),
        digits58_of_pos v hpos]
      simp }

/-- The loop stores the digits of the number, the last one first. -/
theorem digitsStored_leads (v : Nat) : ∀ s : State, Inv s → s.ph = .encNext →
    s.dp.n.toNat ≤ s.cfg.nb → AtHead s → be2nat (s.w.take s.dp.n.toNat) = v →
    s.dp.dl.toNat + (digits58 v).length ≤ s.cfg.nc → ∃ t, Leads s t ∧ DigitsStored v s t := by
  induction v using Nat.strong_induction_on with
  | _ v ih =>
    intro s h hph hn hhead hv hroom
    rcases hhead.stop with hend | hstop
    · exact hv ▸ digitsStored_of_end h hph hn hhead hend
    · rcases Nat.lt_or_ge s.dp.start.toNat s.dp.n.toNat with hlt | hge
      · have hpos : 0 < v :=
          hv ▸ be2nat_take_pos hlt (hn.trans_eq h.workCells.symm) hhead.zeros hstop
        rw [digits58_of_pos v hpos, List.length_append, List.length_singleton] at hroom
        obtain ⟨t, hleads, htrip⟩ := encTrip_leads h hph hlt hn (by omega) hhead.zeros
        have htn : t.dp.n = s.dp.n := by rw [htrip.keeps]
        have htcfg : t.cfg = s.cfg := by rw [htrip.keeps]
        have htnum : be2nat (t.w.take t.dp.n.toNat) = v / 58 := by rw [htn, htrip.number, hv]
        obtain ⟨u, hrest, hstored⟩ := ih (v / 58) (Nat.div_lt_self hpos (by decide)) t
          (hleads.inv h) (by rw [htrip.keeps]; exact hph) (by rw [htn, htcfg]; exact hn)
          htrip.head htnum (by rw [htrip.count, htcfg]; omega)
        exact ⟨u, hleads.trans hrest, .of_trip h hv hpos (by omega) htrip hstored⟩
      · exact hv ▸ digitsStored_of_end h hph hn hhead (le_antisymm hhead.inside hge)

/-! ### The characters in `CBUF` (R75) -/

/-- The characters the output phase writes. -/
def emitted (s : State) : List Byte :=
  List.replicate s.dp.nz.toNat (alphaAt s.cfg 0) ++
    (s.d.take s.dp.dl.toNat).reverse.map fun x => alphaAt s.cfg x.toNat

theorem emitted_length {s : State} (hdl : s.dp.dl.toNat ≤ s.d.length) :
    (emitted s).length = s.dp.nz.toNat + s.dp.dl.toNat := by
  simp [emitted, hdl]

/-- The state after the write of one character. -/
def emitOnce (s : State) : State :=
  writeCbuf s.dp.k.toNat ((emitted s).getD s.dp.k.toNat 0)
    { s with dp := { s.dp with k := s.dp.k + 1 } }

theorem seqStep_encEmit_of_lt {s : State} (hph : s.ph = .encEmit) (hdl : s.dp.dl.toNat ≤ s.d.length)
    (hk : s.dp.k.toNat < s.dp.nz.toNat + s.dp.dl.toNat) : seqStep s = emitOnce s := by
  simp only [seqStep, hph, encEmitStep, emitOnce]
  split_ifs with hzero
  · rw [emitted, List.getD_append _ _ _ _ (by simpa using hzero), List.getD_replicate _ hzero]
  · have hk' : s.dp.k.toNat - s.dp.nz.toNat < (s.d.take s.dp.dl.toNat).length := by
      rw [List.length_take]; omega
    have hidx : s.dp.dl.toNat - 1 - (s.dp.k.toNat - s.dp.nz.toNat) < s.d.length := by omega
    have hlen : (s.d.take s.dp.dl.toNat).length = s.dp.dl.toNat := by
      rw [List.length_take, Nat.min_eq_left hdl]
    rw [emitted, List.getD_append_right _ _ _ _ (by simpa using hzero), List.length_replicate,
      List.getD_eq_getElem _ 0 (by simpa using hk'), List.getElem_map, List.getElem_reverse,
      readD, List.getD_eq_getElem _ 0 hidx, List.getElem_take]
    simp only [hlen]

/-- The state when all characters from `K` on have been written. -/
def emittedAll (k : Index) (s : State) : State :=
  { s with
    cbuf := Memory.writeAll s.cfg.nc s.cbuf s.dp.k.toNat ((emitted s).drop s.dp.k.toNat)
    dp := { s.dp with k := k } }

/-- The output, character by character. -/
theorem encEmit_leads (m : Nat) : ∀ s : State, s.ph = .encEmit → s.dp.dl.toNat ≤ s.d.length →
    s.dp.nz.toNat + s.dp.dl.toNat ≤ 4096 → s.dp.k.toNat + m = s.dp.nz.toNat + s.dp.dl.toNat →
    ∃ k, k.toNat = s.dp.nz.toNat + s.dp.dl.toNat ∧ Leads s (emittedAll k s) := by
  induction m with
  | zero =>
    intro s _ hdl _ hm
    refine ⟨s.dp.k, hm, ?_⟩
    rw [emittedAll, List.drop_eq_nil_of_le (by rw [emitted_length hdl]; omega)]
    exact .refl s
  | succ m ih =>
    intro s hph hdl hcap hm
    have hk : s.dp.k.toNat < s.dp.nz.toNat + s.dp.dl.toNat := by omega
    have hnext : (emitOnce s).dp.k.toNat = s.dp.k.toNat + 1 := toNat_add_one_of_lt hcap hk
    have hm' : (emitOnce s).dp.k.toNat + m = s.dp.nz.toNat + s.dp.dl.toNat := by omega
    obtain ⟨k, hkend, hleads⟩ := ih (emitOnce s) hph hdl hcap hm'
    refine ⟨k, hkend, (Leads.step (seqStep_encEmit_of_lt hph hdl hk)).trans ?_⟩
    have hlen : s.dp.k.toNat < (emitted s).length := by rw [emitted_length hdl]; exact hk
    rw [emittedAll, List.drop_eq_getElem_cons hlen, Memory.writeAll, ← List.getD_eq_getElem _ 0 hlen,
      ← hnext]
    exact hleads

/-- The output phase delivers what it writes (R75). -/
theorem encEmit_ends {s t : State} (hkeeps : OnlyHidden s t) (hph : t.ph = .encEmit)
    (hk : t.dp.k = 0) (hdl : t.dp.dl.toNat ≤ t.d.length)
    (hcap : t.dp.nz.toNat + t.dp.dl.toNat ≤ 4096) :
    Ends t (complete (deliverChars (emitted t) s)) := by
  obtain ⟨k, hkend, hleads⟩ := encEmit_leads _ t hph hdl hcap (by rw [hk]; exact Nat.zero_add _)
  have hlast : seqStep (emittedAll k t) = complete { emittedAll k t with
      clen := BitVec.ofNat 16 (emitted t).length } := by
    rw [emitted_length hdl]
    exact okCompletion.2.1 (emittedAll k t) hph hkend.ge
  refine hleads.ends ⟨_, .step hlast, rfl, ?_⟩
  have hcfg : t.cfg = s.cfg := by rw [hkeeps]
  have hcbuf : t.cbuf = s.cbuf := by rw [hkeeps]
  simp only [emittedAll, hk, hcfg, hcbuf]
  rw [hkeeps]
  rfl

/-! ### The run of an encoder command -/

theorem atHead_of_zerosCounted {s : State} (hn : s.dp.n.toNat ≤ s.w.length) :
    AtHead (zerosCounted (nzeros (workBytes s)) s) := by
  have hcount : (zerosCounted (nzeros (workBytes s)) s).dp.start.toNat = nzeros (workBytes s) :=
    (BitVec.toNat_ofNat _ _).trans (Nat.mod_eq_of_lt (nzeros_workBytes_lt s))
  have hlen : (workBytes s).length = s.dp.n.toNat := by
    rw [workBytes, List.length_take, Nat.min_eq_left hn]
  have hle := nzeros_le_length (workBytes s)
  refine ⟨?inside, fun i hi => ?zeros, ?stop⟩
  case inside => rw [hcount]; exact hle.trans_eq hlen
  case zeros =>
    rw [hcount] at hi
    exact ((readW_eq_zero_iff_lt_nzeros s hn i hi.le).mpr hi).2
  case stop =>
    rw [hcount]
    rcases Nat.lt_or_ge (nzeros (workBytes s)) s.dp.n.toNat with hlt | hge
    · exact .inr fun hz => lt_irrefl _ ((readW_eq_zero_iff_lt_nzeros s hn _ le_rfl).mp ⟨hlt, hz⟩)
    · exact .inl (le_antisymm (hle.trans_eq hlen) hge)

theorem be2nat_drop_nzeros (s : List Byte) : be2nat (s.drop (nzeros s)) = be2nat s := by
  have hzero := getD_of_lt_nzeros s
  have := be2nat_take_eq_drop (nzeros_le_length s) le_rfl hzero
  rwa [List.take_length, eq_comm] at this

/-- Once the work sequence is in `W`, the run ends with its encoding delivered. -/
theorem WorkReady.ends {work : List Byte} {s t : State} (h : WorkReady work s t) (hinv : Inv t)
    (hfit : work.length ≤ s.cfg.nb) :
    Ends t (complete (deliverChars (encodeOut s.cfg work) s)) := by
  obtain ⟨hkeeps, hph, hi, hcount, hbytes⟩ := h
  have hcfg : t.cfg = s.cfg := by rw [hkeeps]
  have hc : s.cfg.wf := hcfg ▸ hinv.config
  have hn : t.dp.n.toNat ≤ t.w.length := by rw [hinv.workCells, hcount, hcfg]; exact hfit
  have hwork : workBytes t = work := by rw [workBytes, hcount, hbytes]
  have hlen := encodeOut_length_le_nc s.cfg hc work hfit
  rw [encodeOut_length, be2nat_drop_nzeros] at hlen
  -- the leading zeros
  obtain ⟨u, hu⟩ : ∃ u, zerosCounted (nzeros (workBytes t)) t = u := ⟨_, rfl⟩
  have hzeros : Leads t u := ⟨_, ((zerosPhaseCountsLeadingZeros t hph hi hn).1).trans hu⟩
  have hhead : AtHead u := hu ▸ atHead_of_zerosCounted hn
  have huw : u.w = t.w := hu ▸ rfl
  have hun : u.dp.n = t.dp.n := hu ▸ rfl
  have hudl : u.dp.dl.toNat = 0 := hu ▸ rfl
  have hucfg : u.cfg = s.cfg := hcfg ▸ hu ▸ rfl
  have hunz : u.dp.nz.toNat = nzeros work := by
    rw [← hwork, ← hu]
    exact (zerosPhaseCountsLeadingZeros t hph hi hn).2
  -- the digits
  obtain ⟨x, hdigits, hkeeps', hxph, hxk, hxnz, hxdl, hxd⟩ :=
    digitsStored_leads (be2nat work) u (hzeros.inv hinv) (hu ▸ rfl)
      (by rw [hun, hcount, hucfg]; exact hfit) hhead (by rw [huw, hun, hcount, hbytes])
      (by rw [hudl, hucfg]; omega)
  have hx : OnlyHidden s x := (hkeeps.trans (hu ▸ rfl)).trans hkeeps'
  have hxcfg : x.cfg = s.cfg := by rw [hx]
  have hxdl' : x.dp.dl.toNat = (digits58 (be2nat work)).length := by rw [hxdl, hudl, Nat.zero_add]
  have hxnz' : x.dp.nz.toNat = nzeros work := by rw [hxnz, hunz]
  have hxinv := hdigits.inv (hzeros.inv hinv)
  have hcap : s.cfg.nc ≤ 4096 := hc.2.1.2
  have hroom : x.dp.dl.toNat ≤ x.d.length := by rw [hxinv.digitCells, hxdl', hxcfg]; omega
  have hout : emitted x = encodeOut s.cfg work := by
    rw [emitted, hxd, hudl, hxnz', hxcfg, encodeOut, be2nat_drop_nzeros]
    simp only [List.take_zero, List.nil_append, List.reverse_reverse, List.map_map]
    refine congrArg _ (List.map_congr_left fun y hy => ?_)
    exact congrArg (alphaAt s.cfg) (toNat_ofNat_digit (lt_58_of_mem_digits58 _ y hy))
  rw [← hout]
  exact (hzeros.trans hdigits).ends (encEmit_ends hx hxph hxk hroom (by omega))

/-- The run of an encoder command, which lays its work sequence out where it fits. -/
theorem encodeWith_ends {s : State} (h : Inv s) (hph : s.ph = .encInit) {extra : Nat}
    {work : List Byte → List Byte} (hextra : (if s.op = 3 then Config.ckLen else 0) = extra)
    (hwork : (work (sourceBytes s)).length = s.blen.toNat + extra)
    (hready : s.blen.toNat + extra ≤ s.cfg.nb →
      ∃ t, Leads s t ∧ WorkReady (work (sourceBytes s)) s t) :
    Ends s (encodeWith extra work s) := by
  rcases Nat.lt_or_ge s.cfg.nb (s.blen.toNat + extra) with hlt | hfit
  · rw [encodeWith_of_lt extra work s hlt]
    exact ends_failWith (.refl s) (seqStep_encInit_of_lt hph hextra hlt)
  · rw [encodeWith_of_le extra work s hfit]
    obtain ⟨t, hleads, hlaid⟩ := hready hfit
    exact hleads.ends (hlaid.ends (hleads.inv h) (hwork.trans_le hfit))

section
variable {s : State} (h : Inv s)
include h

theorem b58enc_ends : Ends (accept .b58enc s) (commandBody .b58enc (accept .b58enc s)) := by
  have ha := h.accept .b58enc
  rw [commandBody]
  exact encodeWith_ends ha rfl rfl (sourceBytes_length _) (workReady_of_b58enc ha rfl rfl)

theorem b58chkEnc_ends :
    Ends (accept .b58chkEnc s) (commandBody .b58chkEnc (accept .b58chkEnc s)) := by
  have ha := h.accept .b58chkEnc
  have hwork : (sourceBytes (accept .b58chkEnc s) ++
      checksum (sourceBytes (accept .b58chkEnc s))).length =
      (accept .b58chkEnc s).blen.toNat + Config.ckLen := by
    rw [List.length_append, sourceBytes_length, checksum_length]
    rfl
  rw [commandBody]
  exact encodeWith_ends ha rfl rfl hwork (workReady_of_b58chkEnc ha rfl rfl)

end

/-- Settles O57: the two commands lay out different work sequences; the conversion is the same. -/
theorem encoderSequencerComputesTheCommand : Obligations.EncoderSequencerComputesTheCommand := by
  intro s hinv hs i hi
  refine exec_eq_of_ends i hs ?_
  rcases hi with rfl | rfl
  · exact b58enc_ends hinv
  · exact b58chkEnc_ends hinv

end Sys2Proof.Machine
end

section
/-!
PROOFS. The decoder's loop: a trip multiplies the number by 58 and adds a digit, or finds that the
result does not fit (R89, R90, R94). Settles O33.
-/

namespace Sys2Proof.Machine

/-! ### The number and its head -/

theorem pow_le_be2nat_cons_iff (b : Byte) (l : List Byte) :
    256 ^ l.length ≤ be2nat (b :: l) ↔ b ≠ 0 := by
  have hl := be2nat_lt_pow l
  rw [be2nat_cons]
  constructor
  · rintro h rfl
    rw [show (0 : Byte).toNat = 0 from rfl] at h
    omega
  · intro hb
    have hpos : 1 ≤ b.toNat := Nat.pos_of_ne_zero fun h => hb (BitVec.eq_of_toNat_eq h)
    exact (Nat.le_mul_of_pos_left _ hpos).trans (Nat.le_add_right _ _)

theorem drop_eq_getD_cons (w : List Byte) {j : Nat} (hj : j < w.length) :
    w.drop j = w.getD j 0 :: w.drop (j + 1) := by
  rw [List.drop_eq_getElem_cons hj, List.getD_eq_getElem w 0 hj]

/-- The number in `W[NB-WL..NB)`. -/
def accumulated (s : State) : Nat := be2nat (s.w.drop (s.cfg.nb - s.dp.wl.toNat))

/-- The number has no leading zero byte. -/
def NoLeadingZero (s : State) : Prop := s.dp.wl.toNat = 0 ∨ readW s (s.cfg.nb - s.dp.wl.toNat) ≠ 0

/-- A number without leading zero byte, by its size. -/
theorem noLeadingZero_iff {s : State} (hwl : s.dp.wl.toNat ≤ s.cfg.nb) (hw : s.w.length = s.cfg.nb) :
    NoLeadingZero s ↔ s.dp.wl.toNat = 0 ∨ 256 ^ (s.dp.wl.toNat - 1) ≤ accumulated s := by
  refine or_congr_right' fun hpos => ?_
  have hlt : s.cfg.nb - s.dp.wl.toNat < s.w.length := by omega
  have hlen : (s.w.drop (s.cfg.nb - s.dp.wl.toNat + 1)).length = s.dp.wl.toNat - 1 := by
    rw [List.length_drop]; omega
  rw [accumulated, drop_eq_getD_cons s.w hlt, ← hlen, pow_le_be2nat_cons_iff, readW]

theorem accumulated_lt {s : State} (hwl : s.dp.wl.toNat ≤ s.cfg.nb) (hw : s.w.length = s.cfg.nb) :
    accumulated s < 256 ^ s.dp.wl.toNat := by
  have hlt := be2nat_lt_pow (s.w.drop (s.cfg.nb - s.dp.wl.toNat))
  rwa [List.length_drop, hw, Nat.sub_sub_self hwl] at hlt

/-! ### A trip of the loop (R94) -/

/-- What the number becomes in a trip. -/
def nextNumber (s : State) : Nat := accumulated s * 58 + (readD s s.dp.i.toNat).toNat

/-- `t` is `s` after a trip of the decoder's loop that does not fail. -/
structure DecTrip (s t : State) : Prop where
  keeps : t = { s with
    w := t.w
    dp := { s.dp with carry := t.dp.carry, j := t.dp.j, i := t.dp.i, wl := t.dp.wl } }
  index : t.dp.i.toNat = s.dp.i.toNat + 1
  inside : t.dp.wl.toNat ≤ s.cfg.nb
  number : accumulated t = nextNumber s
  head : NoLeadingZero t

/-- The run from `s` reaches a step that raises `f`, with nothing but hidden state changed. -/
def Fails (f : Failure) (s : State) : Prop :=
  ∃ t, Leads s t ∧ OnlyHidden s t ∧ seqStep t = failWith f t

theorem Fails.ends {f : Failure} {s : State} : Fails f s → Ends s (failWith f s) := by
  rintro ⟨t, hleads, hkeeps, hstep⟩
  exact hleads.ends (ends_failWith hkeeps hstep)

theorem Fails.of_leads {f : Failure} {s t : State} (hleads : Leads s t) (hkeeps : OnlyHidden s t) :
    Fails f t → Fails f s := by
  rintro ⟨u, hleads', hkeeps', hstep⟩
  exact ⟨u, hleads.trans hleads', hkeeps.trans hkeeps', hstep⟩

/-- The state in which a trip enters its multiply pass. -/
def startMultiply (s : State) : State :=
  { s with dp := { s.dp with carry := readD s s.dp.i.toNat, j := 0 }, ph := .decMul }

/-- A trip up to the end of its multiply pass. -/
theorem multiplied_leads {s : State} (h : Inv s) (hph : s.ph = .decNext)
    (hi : s.dp.i.toNat < s.dp.m.toNat) (hwl : s.dp.wl.toNat ≤ s.cfg.nb) :
    ∃ u, Leads s u ∧ Multiplied (startMultiply s) u ∧
      accumulated u + u.dp.carry.toNat * 256 ^ s.dp.wl.toNat = nextNumber s := by
  have henter : seqStep s = startMultiply s := by
    simp only [seqStep, hph, decNextStep, if_pos hi, startMultiply]
  obtain ⟨u, hu⟩ : ∃ u, seqIter s.dp.wl.toNat (startMultiply s) = u := ⟨_, rfl⟩
  have hpass : Multiplied (startMultiply s) u :=
    hu ▸ multiplied_seqIter _ (startMultiply s) rfl (readD_le s h.digitRange _) hwl h.workCells
      (Nat.zero_add _)
  refine ⟨u, (Leads.step henter).trans ⟨_, hu⟩, hpass, ?_⟩
  have hproduct := hpass.product
  have hucfg : u.cfg = s.cfg := by rw [hpass.keeps]; rfl
  have huwl : u.dp.wl = s.dp.wl := by rw [hpass.keeps]; rfl
  have hulen : u.w.length = s.cfg.nb := hpass.cells.trans h.workCells
  simp only [startMultiply, show (0 : Index).toNat = 0 from rfl, Nat.sub_zero] at hproduct
  rwa [List.take_of_length_le hulen.le, List.take_of_length_le h.workCells.le, ← hucfg, ← huwl,
    ← accumulated, hucfg, huwl, ← accumulated, ← nextNumber] at hproduct

section
variable {s u : State} (h : Inv s) (hph : s.ph = .decNext) (hi : s.dp.i.toNat < s.dp.m.toNat)
  (hwl : s.dp.wl.toNat ≤ s.cfg.nb) (hpass : Multiplied (startMultiply s) u)
  (hproduct : accumulated u + u.dp.carry.toNat * 256 ^ s.dp.wl.toNat = nextNumber s)
include hpass

theorem seqStep_decMul_end (hcarry : u.dp.carry = 0) :
    seqStep u = { u with dp := { u.dp with i := u.dp.i + 1 }, ph := .decNext } := by
  have huph : u.ph = .decMul := by rw [hpass.keeps]; rfl
  have hj : u.dp.j = u.dp.wl := by rw [hpass.atEnd, hpass.keeps]
  simp only [seqStep, huph, decMulStep, hj, lt_irrefl, if_false, hcarry, if_true]

theorem seqStep_decMul_full (hcarry : u.dp.carry ≠ 0) (hfull : s.dp.wl.toNat = s.cfg.nb) :
    seqStep u = failWith capacityFailure u := by
  have huph : u.ph = .decMul := by rw [hpass.keeps]; rfl
  have hj : u.dp.j = u.dp.wl := by rw [hpass.atEnd, hpass.keeps]
  have hfull' : u.dp.wl.toNat = u.cfg.nb := by rw [hpass.keeps]; exact hfull
  simp only [seqStep, huph, decMulStep, hj, lt_irrefl, if_false, hcarry, hfull', if_true]

/-- The state in which the number has grown by the carry. -/
def grown (u : State) : State :=
  { u with
    w := u.w.set (u.cfg.nb - 1 - u.dp.wl.toNat) (u.dp.carry.setWidth 8)
    dp := { u.dp with wl := u.dp.wl + 1, i := u.dp.i + 1 }
    ph := .decNext }

theorem seqStep_decMul_grow (hcarry : u.dp.carry ≠ 0) (hroom : s.dp.wl.toNat < s.cfg.nb) :
    seqStep u = grown u := by
  have huph : u.ph = .decMul := by rw [hpass.keeps]; rfl
  have hj : u.dp.j = u.dp.wl := by rw [hpass.atEnd, hpass.keeps]
  have hroom' : ¬ u.dp.wl.toNat = u.cfg.nb := by rw [hpass.keeps]; exact hroom.ne
  simp only [seqStep, huph, decMulStep, hj, lt_irrefl, if_false, hcarry, hroom', grown]

include h hph hi hwl hproduct

/-- No carry is left: the number has kept its size, and has no leading zero as it has not shrunk. -/
theorem decTrip_of_no_carry (hhead : NoLeadingZero s) (hcarry : u.dp.carry = 0) :
    DecTrip s { u with dp := { u.dp with i := u.dp.i + 1 }, ph := .decNext } := by
  obtain ⟨t, ht⟩ : ∃ t, { u with dp := { u.dp with i := u.dp.i + 1 }, ph := .decNext } = t := ⟨_, rfl⟩
  have hucfg : u.cfg = s.cfg := by rw [hpass.keeps]; rfl
  have huwl : u.dp.wl = s.dp.wl := by rw [hpass.keeps]; rfl
  have hui : u.dp.i = s.dp.i := by rw [hpass.keeps]; rfl
  have htcfg : t.cfg = s.cfg := ht ▸ hucfg
  have htwl : t.dp.wl = s.dp.wl := ht ▸ huwl
  have hulen : u.w.length = u.cfg.nb := (hpass.cells.trans h.workCells).trans (hucfg ▸ rfl)
  have htlen : t.w.length = t.cfg.nb := ht ▸ hulen
  have hnumber : accumulated t = nextNumber s := by
    rw [hcarry, show (0 : Digit).toNat = 0 from rfl, Nat.zero_mul, Nat.add_zero] at hproduct
    rw [← hproduct, ← ht]
    rfl
  rw [ht]
  exact {
    keeps := by
      rw [← ht, hpass.keeps]
      simp only [startMultiply, hph]
    index := by rw [← ht, ← hui]; exact toNat_add_one (hui ▸ hi |>.trans_eq rfl)
    inside := by rw [htwl]; exact hwl
    number := hnumber
    head := by
      rw [noLeadingZero_iff hwl h.workCells] at hhead
      rw [noLeadingZero_iff (by rw [htwl, htcfg]; exact hwl) htlen, htwl, hnumber, nextNumber]
      exact hhead.imp_right fun hsize => by omega }

omit hwl in
/-- A carry is left and there is room: it becomes the new first byte. -/
theorem decTrip_of_carry (hcarry : u.dp.carry ≠ 0) (hroom : s.dp.wl.toNat < s.cfg.nb) :
    DecTrip s (grown u) := by
  obtain ⟨⟨-, hnb⟩, -, -⟩ := h.config
  have hucfg : u.cfg = s.cfg := by rw [hpass.keeps]; rfl
  have huwl : u.dp.wl = s.dp.wl := by rw [hpass.keeps]; rfl
  have hui : u.dp.i = s.dp.i := by rw [hpass.keeps]; rfl
  have hulen : u.w.length = s.cfg.nb := hpass.cells.trans h.workCells
  have htwl : (grown u).dp.wl.toNat = s.dp.wl.toNat + 1 := by
    rw [← huwl]
    exact toNat_add_one_of_lt (n := s.cfg.nb) (by omega) (by rw [huwl]; exact hroom)
  have hbyte : ((u.dp.carry.setWidth 8 : Byte)).toNat = u.dp.carry.toNat := by
    rw [BitVec.toNat_setWidth, Nat.mod_eq_of_lt (u.dp.carry.isLt.trans (by decide))]
  have hidx : (grown u).cfg.nb - (grown u).dp.wl.toNat = u.cfg.nb - 1 - u.dp.wl.toNat := by
    rw [htwl, huwl]
    exact (Nat.sub_add_eq ..).trans (Nat.sub_right_comm ..)
  have hlt : u.cfg.nb - 1 - u.dp.wl.toNat < u.w.length := by rw [hucfg, huwl]; omega
  have hsucc : u.cfg.nb - 1 - u.dp.wl.toNat + 1 = u.cfg.nb - u.dp.wl.toNat := by
    rw [hucfg, huwl]; omega
  have hrest : (u.w.drop (u.cfg.nb - u.dp.wl.toNat)).length = s.dp.wl.toNat := by
    rw [List.length_drop, hucfg, huwl]; omega
  have hget : (grown u).w.getD (u.cfg.nb - 1 - u.dp.wl.toNat) 0 = u.dp.carry.setWidth 8 :=
    getD_set_self u.w hlt _
  have hlt' : u.cfg.nb - 1 - u.dp.wl.toNat < (grown u).w.length :=
    hlt.trans_eq (List.length_set ..).symm
  have hdrop : (grown u).w.drop (u.cfg.nb - u.dp.wl.toNat) = u.w.drop (u.cfg.nb - u.dp.wl.toNat) :=
    List.drop_set_of_lt (by omega)
  exact {
    keeps := by
      rw [grown, hpass.keeps]
      simp only [startMultiply, hph]
    index := by rw [← hui]; exact toNat_add_one (hui ▸ hi |>.trans_eq rfl)
    inside := by rw [htwl]; exact hroom
    number := by
      rw [accumulated, hidx, drop_eq_getD_cons _ hlt', hget,
        hsucc, hdrop, be2nat_cons, hrest, hbyte, ← hproduct,
        accumulated]
      omega
    head := by
      refine .inr ?_
      rw [hidx, readW, hget]
      exact fun hzero => hcarry (BitVec.eq_of_toNat_eq (hbyte.symm.trans (by rw [hzero]; rfl))) }

end

/-- A trip accumulates a digit, or fails, as its result fits `NB` bytes or not. -/
theorem decTrip_leads {s : State} (h : Inv s) (hph : s.ph = .decNext)
    (hi : s.dp.i.toNat < s.dp.m.toNat) (hwl : s.dp.wl.toNat ≤ s.cfg.nb) (hhead : NoLeadingZero s) :
    (nextNumber s < 256 ^ s.cfg.nb ∧ ∃ t, Leads s t ∧ DecTrip s t) ∨
    (256 ^ s.cfg.nb ≤ nextNumber s ∧ Fails capacityFailure s) := by
  obtain ⟨u, hleads, hpass, hproduct⟩ := multiplied_leads h hph hi hwl
  have fits {t : State} (ht : Leads s t) (htrip : DecTrip s t) :
      nextNumber s < 256 ^ s.cfg.nb ∧ ∃ t, Leads s t ∧ DecTrip s t := by
    have hcfg : t.cfg = s.cfg := by rw [htrip.keeps]
    have hlt := accumulated_lt (hcfg ▸ htrip.inside) (ht.inv h).workCells
    rw [htrip.number] at hlt
    exact ⟨hlt.trans_le (Nat.pow_le_pow_right (by decide) htrip.inside), t, ht, htrip⟩
  by_cases hcarry : u.dp.carry = 0
  · exact .inl (fits (hleads.trans (.step (seqStep_decMul_end hpass hcarry)))
      (decTrip_of_no_carry h hph hi hwl hpass hproduct hhead hcarry))
  · rcases hwl.lt_or_eq with hroom | hfull
    · exact .inl (fits (hleads.trans (.step (seqStep_decMul_grow hpass hcarry hroom)))
        (decTrip_of_carry h hph hi hpass hproduct hcarry hroom))
    · have hkeeps : OnlyHidden s u := by
        refine OnlyHidden.trans (t := startMultiply s) rfl ?_
        rw [hpass.keeps]
        rfl
      refine .inr ⟨?_, u, hleads, hkeeps, seqStep_decMul_full hpass hcarry hfull⟩
      have hpos : 1 ≤ u.dp.carry.toNat :=
        Nat.pos_of_ne_zero fun hz => hcarry (BitVec.eq_of_toNat_eq hz)
      rw [← hproduct, hfull]
      exact (Nat.le_mul_of_pos_left _ hpos).trans (Nat.le_add_left _ _)

/-- Settles O33: the trip that fits and the trip that fails exclude each other. -/
theorem decoderTripAccumulatesADigit : Obligations.DecoderTripAccumulatesADigit := by
  intro s h hph hi _ hwl hhead
  rcases decTrip_leads h hph hi hwl hhead with
    ⟨hlt, t, ⟨k, rfl⟩, htrip⟩ | ⟨hge, t, ⟨k, rfl⟩, hkeeps, hstep⟩
  · obtain ⟨hkeeps, hindex, hinside, hnumber, hhead'⟩ := htrip
    have hcfg : (seqIter k s).cfg = s.cfg := (seqIter_outside k s).1
    rw [accumulated, hcfg] at hnumber
    rw [NoLeadingZero, hcfg] at hhead'
    exact ⟨k, fun _ => ⟨by rw [hkeeps, hph], hindex, by rw [hkeeps], by rw [hkeeps], by rw [hkeeps],
      hinside, hnumber, hhead'⟩, fun hge => absurd hlt hge.not_gt⟩
  · refine ⟨k + 1, fun hlt => absurd hlt hge.not_gt, fun _ => ?_⟩
    rw [seqIter_succ_eq_seqStep, hstep]
    exact ⟨rfl, rfl, by rw [failWith_bbuf, hkeeps]⟩

end Sys2Proof.Machine
end

section
/-!
PROOFS. The decoder at step level up to the raw bytes in `W`: the digits in `D`, the number, the
leading zeros (R86 to R92), against `decode_raw` (R78).
-/

namespace Sys2Proof.Machine

/-! ### Phase `DEC_SCAN` (R87) -/

theorem charsBelow_succ (s : State) (i : Nat) :
    charsBelow s (i + 1) = charsBelow s i ++ [readCbuf s i] := by
  simp [charsBelow, List.range_succ]

theorem charsBelow_getD (s : State) {n i : Nat} (hi : i < n) :
    (charsBelow s n).getD i 0 = readCbuf s i := by
  simp [charsBelow, List.getD_eq_getElem?_getD, List.getElem?_range hi]

/-- The state of the phase at character `k`, with the digits so far in `D`. -/
def scanning (d : List Digit) (k : Nat) (s : State) : State :=
  { s with d := d, dp := { s.dp with i := BitVec.ofNat 13 k } }

/-- The state in which the phase is entered. -/
def startScan (s : State) : State :=
  { s with dp := { s.dp with m := BitVec.ofNat 13 s.clen.toNat, i := 0 }, ph := .decScan }

theorem ofNat_index_succ (k : Nat) : BitVec.ofNat 13 (k + 1) = BitVec.ofNat 13 k + 1 :=
  BitVec.ofNat_add k 1

section
variable {s : State} (hph : s.ph = .decScan) (hm : s.dp.m.toNat ≤ 4096)
include hph hm

theorem seqStep_scanning_of_lt (d : List Digit) {k : Nat} (hk : k < s.dp.m.toNat) :
    seqStep (scanning d k s) =
      match alphaIndex s.cfg (readCbuf s k) with
      | none => failWith
          { cause := .invalidCharacter, pos := k, char := readCbuf s k } (scanning d k s)
      | some x => scanning (d.set k (BitVec.ofNat 6 x)) (k + 1) s := by
  have hi : (scanning d k s).dp.i.toNat = k := toNat_ofNat_index (by omega)
  have hstep : seqStep (scanning d k s) = decScanStep (scanning d k s) := by
    simp only [seqStep, scanning, hph]
  have hmore : k < (scanning d k s).dp.m.toNat := hk
  rw [hstep, decScanStep, hi, if_pos hmore]
  simp only [scanning, ofNat_index_succ]
  rfl

/-- The scan up to a character, where all before it are in the alphabet. -/
theorem scanning_leads (hi : s.dp.i = 0) (hd : s.dp.m.toNat ≤ s.d.length) (k : Nat)
    (hk : k ≤ s.dp.m.toNat) (hall : ∀ i, i < k → alphaIndex s.cfg (readCbuf s i) ≠ none) :
    ∃ d, Leads s (scanning d k s) ∧ d.length = s.d.length ∧
      d.take k = (digitValues s.cfg (charsBelow s k)).map (BitVec.ofNat 6) := by
  induction k with
  | zero =>
    refine ⟨s.d, ?_, rfl, rfl⟩
    rw [scanning, show BitVec.ofNat 13 0 = s.dp.i from hi.symm]
    exact .refl s
  | succ k ih =>
    obtain ⟨d, hleads, hlen, htake⟩ := ih (by omega) fun i hik => hall i (by omega)
    obtain ⟨x, hx⟩ := Option.ne_none_iff_exists'.mp (hall k (Nat.lt_succ_self k))
    have hstep := seqStep_scanning_of_lt hph hm d (k := k) (by omega)
    rw [hx] at hstep
    refine ⟨_, hleads.trans (.step hstep), (List.length_set ..).trans hlen, ?_⟩
    rw [take_set_succ d (by omega), htake, charsBelow_succ, digitValues, digitValues, List.map_append,
      List.map_append, List.map_singleton, List.map_singleton, hx, Option.getD_some]

end

/-! ### Phase `DEC_ZEROS` (R88) -/

/-- `D[0..M)` holds the given digits. -/
def HoldsDigits (d : List Nat) (s : State) : Prop :=
  s.dp.m.toNat = d.length ∧ s.d.take d.length = d.map (BitVec.ofNat 6) ∧ ∀ x ∈ d, x < 58

theorem HoldsDigits.readD {d : List Nat} {s : State} (h : HoldsDigits d s) {i : Nat}
    (hi : i < d.length) : (readD s i).toNat = d.getD i 0 := by
  obtain ⟨-, htake, hrange⟩ := h
  have hget := congrArg (·[i]?) htake
  simp only [List.getElem?_take_of_lt hi, List.getElem?_map, List.getElem?_eq_getElem hi,
    Option.map_some] at hget
  rw [Machine.readD, List.getD_eq_getElem?_getD, hget, Option.getD_some, List.getD_eq_getElem d 0 hi]
  exact toNat_ofNat_digit (hrange _ (List.getElem_mem hi))

theorem HoldsDigits.congr {d : List Nat} {s t : State} (h : HoldsDigits d s) (hm : t.dp.m = s.dp.m)
    (hd : t.d = s.d) : HoldsDigits d t := by
  obtain ⟨hlen, htake, hrange⟩ := h
  exact ⟨hm ▸ hlen, hd ▸ htake, hrange⟩

/-- The state in which the phase is left, `nz` zeros counted. -/
def zeroDigitsCounted (nz : Nat) (s : State) : State :=
  let count := BitVec.ofNat 13 nz
  { s with ph := .decNext, dp := { s.dp with i := count, nz := count, wl := 0 } }

section
variable {s : State} {nz : Nat} {e : List Nat} (hph : s.ph = .decZeros)
  (hd : HoldsDigits (List.replicate nz 0 ++ e) s) (hm : s.dp.m.toNat ≤ 4096)
include hph hd hm

theorem seqIter_decZeros (hi : s.dp.i = 0) (k : Nat) (hk : k ≤ nz) :
    seqIter k s = withIndex k s := by
  induction k with
  | zero => rw [seqIter_zero, withIndex_zero s hi]
  | succ k ih =>
    have hlen : (List.replicate nz 0 ++ e).length = nz + e.length := by simp
    have hmlen := hd.1
    have hzero : Machine.readD s k = 0 := by
      refine BitVec.eq_of_toNat_eq ((hd.readD (by omega)).trans ?_)
      rw [List.getD_append _ _ _ _ (by simpa using hk), List.getD_replicate _ (by omega)]
      rfl
    have hidx : (withIndex k s).dp.i.toNat = k := toNat_ofNat_index (by omega)
    have hstep : seqStep (withIndex k s) = decZerosStep (withIndex k s) := by
      simp only [seqStep, withIndex, hph]
    rw [seqIter_succ_eq_seqStep, ih (by omega), hstep, decZerosStep, hidx,
      if_pos ⟨(by omega : k < s.dp.m.toNat), hzero⟩]
    simp only [withIndex, ofNat_index_succ]

theorem zeroDigitsCounted_leads (hi : s.dp.i = 0) (he : e.head? ≠ some 0) :
    Leads s (zeroDigitsCounted nz s) := by
  have hlen : (List.replicate nz 0 ++ e).length = nz + e.length := by simp
  have hmlen := hd.1
  have hidx : (withIndex nz s).dp.i.toNat = nz := toNat_ofNat_index (by omega)
  have hstop : ¬ (nz < s.dp.m.toNat ∧ Machine.readD s nz = 0) := by
    rintro ⟨hlt, hzero⟩
    have hget := hd.readD (i := nz) (by omega)
    rw [hzero, List.getD_append_right _ _ _ _ (by simp), List.length_replicate, Nat.sub_self,
      List.getD_eq_getElem e 0 (by omega)] at hget
    exact he (by rw [List.head?_eq_getElem?, List.getElem?_eq_getElem (by omega), ← hget]; rfl)
  have hstep : seqStep (withIndex nz s) = zeroDigitsCounted nz s := by
    have hzeros : seqStep (withIndex nz s) = decZerosStep (withIndex nz s) := by
      simp only [seqStep, withIndex, hph]
    rw [hzeros, decZerosStep, hidx]
    exact if_neg hstop
  exact .trans ⟨nz, seqIter_decZeros hph hd hm hi nz le_rfl⟩ (.step hstep)

end

/-! ### The loop (R94) -/

/-- `t` is `s` with the number `v` accumulated, ready for the test of the output capacity. -/
structure Accumulated (v : Nat) (s t : State) : Prop where
  keeps : OnlyHidden s t
  phase : t.ph = .decFit
  inside : t.dp.wl.toNat ≤ s.cfg.nb
  number : t.w.drop (s.cfg.nb - t.dp.wl.toNat) = nat2be v

/-- A sequence without leading zero is the minimal one of its number. -/
theorem drop_eq_nat2be {s : State} (hw : s.w.length = s.cfg.nb)
    (hhead : NoLeadingZero s) : s.w.drop (s.cfg.nb - s.dp.wl.toNat) = nat2be (accumulated s) := by
  refine (nat2be_be2nat _ ?_).symm
  rw [List.head?_drop]
  rcases hhead with hzero | hbyte
  · rw [hzero, Nat.sub_zero, ← hw, List.getElem?_length]
    exact nofun
  · intro hsome
    rw [readW, List.getD_eq_getElem?_getD, hsome] at hbyte
    exact hbyte rfl

theorem digits2nat_le_append (d e : List Nat) : digits2nat d ≤ digits2nat (d ++ e) := by
  rw [digits2nat_append]
  exact (Nat.le_mul_of_pos_right _ (by positivity)).trans (Nat.le_add_right _ _)

/-- The loop accumulates the digits that are left, or fails where the number does not fit. -/
theorem accumulated_leads (nz : Nat) (rest : List Nat) : ∀ (done : List Nat) (s : State), Inv s →
    s.ph = .decNext → HoldsDigits (List.replicate nz 0 ++ (done ++ rest)) s →
    s.dp.i.toNat = nz + done.length → s.dp.wl.toNat ≤ s.cfg.nb → NoLeadingZero s →
    accumulated s = digits2nat done →
    (∃ t, Leads s t ∧ Accumulated (digits2nat (done ++ rest)) s t ∧ t.dp.nz = s.dp.nz) ∨
    (256 ^ s.cfg.nb ≤ digits2nat (done ++ rest) ∧ Fails capacityFailure s) := by
  induction rest with
  | nil =>
    intro done s h hph hd hi hwl hhead hnumber
    have hend : ¬ s.dp.i.toNat < s.dp.m.toNat := by rw [hd.1, hi]; simp
    have hstep : seqStep s = { s with ph := .decFit } := by
      simp only [seqStep, hph, decNextStep, if_neg hend]
    refine .inl ⟨_, .step hstep, ⟨rfl, rfl, hwl, ?_⟩, rfl⟩
    rw [List.append_nil, ← hnumber]
    exact drop_eq_nat2be h.workCells hhead
  | cons x rest ih =>
    intro done s h hph hd hi hwl hhead hnumber
    have hmore : s.dp.i.toNat < s.dp.m.toNat := by rw [hd.1, hi]; simp
    have hdigit : (Machine.readD s s.dp.i.toNat).toNat = x := by
      rw [hi, hd.readD (by simp), List.getD_append_right _ _ _ _ (by simp), List.length_replicate,
        Nat.add_sub_cancel_left, List.getD_append_right _ _ _ _ le_rfl, Nat.sub_self,
        List.getD_cons_zero]
    have hnext : nextNumber s = digits2nat (done ++ [x]) := by
      rw [nextNumber, hnumber, hdigit, digits2nat_concat]
    have hassoc : done ++ x :: rest = (done ++ [x]) ++ rest := by simp
    rw [hassoc] at hd ⊢
    rcases decTrip_leads h hph hmore hwl hhead with ⟨-, t, hleads, htrip⟩ | ⟨hbig, hfails⟩
    · have hcfg : t.cfg = s.cfg := by rw [htrip.keeps]
      have hkeeps : OnlyHidden s t := by rw [htrip.keeps, OnlyHidden]
      have hrest := ih (done ++ [x]) t (hleads.inv h) (by rw [htrip.keeps]; exact hph)
        (hd.congr (by rw [htrip.keeps]) (by rw [htrip.keeps]))
        (by rw [htrip.index, hi, List.length_append, List.length_singleton, Nat.add_assoc])
        (hcfg ▸ htrip.inside) htrip.head (htrip.number.trans hnext)
      rcases hrest with ⟨u, hleads', ⟨hkeeps', hphase, hinside, hbytes⟩, hzeros⟩ | ⟨hbig, hfails⟩
      · rw [hcfg] at hinside hbytes
        exact .inl ⟨u, hleads.trans hleads', ⟨hkeeps.trans hkeeps', hphase, hinside, hbytes⟩,
          hzeros.trans (by rw [htrip.keeps])⟩
      · rw [hcfg] at hbig
        exact .inr ⟨hbig, hfails.of_leads hleads hkeeps⟩
    · exact .inr ⟨(hnext ▸ hbig).trans (digits2nat_le_append _ rest), hfails⟩

/-! ### Phases `DEC_FIT` and `DEC_PAD` (R91, R92) -/

/-- `t` is `s` with the raw bytes at the end of `W`, at the end of the padding. -/
structure RawReady (raw : List Byte) (s t : State) : Prop where
  keeps : OnlyHidden s t
  phase : t.ph = .decPad
  padded : t.dp.nz.toNat ≤ t.dp.j.toNat
  length : t.dp.rl.toNat = raw.length
  fits : raw.length ≤ s.cfg.nb
  bytes : t.w.drop (s.cfg.nb - raw.length) = raw

/-- The padding writes its zeros from the number to the left. -/
theorem pad_leads {s : State} (hph : s.ph = .decPad) (hj : s.dp.j = 0) (hw : s.w.length = s.cfg.nb)
    (hfit : s.dp.nz.toNat + s.dp.wl.toNat ≤ s.cfg.nb) (hnb : s.cfg.nb ≤ 4096) (k : Nat)
    (hk : k ≤ s.dp.nz.toNat) :
    ∃ w, Leads s { s with w := w, dp := { s.dp with j := BitVec.ofNat 13 k } } ∧
      w.length = s.w.length ∧
      w.drop (s.cfg.nb - s.dp.wl.toNat - k) =
        List.replicate k 0 ++ s.w.drop (s.cfg.nb - s.dp.wl.toNat) := by
  induction k with
  | zero =>
    refine ⟨s.w, ?_, rfl, rfl⟩
    rw [show BitVec.ofNat 13 0 = s.dp.j from hj.symm]
    exact .refl s
  | succ k ih =>
    obtain ⟨w, hleads, hlen, hdrop⟩ := ih (by omega)
    have hidx : (BitVec.ofNat 13 k).toNat = k := toNat_ofNat_index (by omega)
    have hstep : seqStep { s with w := w, dp := { s.dp with j := BitVec.ofNat 13 k } } =
        { s with
          w := w.set (s.cfg.nb - 1 - s.dp.wl.toNat - k) 0
          dp := { s.dp with j := BitVec.ofNat 13 (k + 1) } } := by
      simp only [seqStep, hph, decPadStep, hidx, if_pos (Nat.lt_of_succ_le hk), ofNat_index_succ]
    refine ⟨_, hleads.trans (.step hstep), (List.length_set ..).trans hlen, ?_⟩
    have he : s.cfg.nb - 1 - s.dp.wl.toNat - k = s.cfg.nb - s.dp.wl.toNat - (k + 1) := by omega
    have he1 : s.cfg.nb - s.dp.wl.toNat - (k + 1) + 1 = s.cfg.nb - s.dp.wl.toNat - k := by omega
    have hlt : s.cfg.nb - s.dp.wl.toNat - (k + 1) < w.length := by omega
    rw [he, drop_eq_getD_cons _ (hlt.trans_eq (List.length_set ..).symm), getD_set_self w hlt,
      List.drop_set_of_lt (Nat.lt_add_one _), he1, hdrop, List.replicate_succ, List.cons_append]

/-- The state in which the padding is entered. -/
def startPad (s : State) : State :=
  { s with dp := { s.dp with rl := s.dp.nz + s.dp.wl, j := 0 }, ph := .decPad }

section
variable {v : Nat} {s t : State} (h : Accumulated v s t) (hinv : Inv t)
include h

theorem Accumulated.size (hinv : Inv t) : t.dp.wl.toNat = (nat2be v).length := by
  have hcfg : t.cfg = s.cfg := by rw [h.keeps]
  have hinside := h.inside
  rw [← h.number, List.length_drop, hinv.workCells, hcfg]
  omega

include hinv

theorem Accumulated.fails (hbig : s.cfg.nb < t.dp.nz.toNat + (nat2be v).length) :
    Fails capacityFailure t := by
  rw [← h.size hinv, ← show t.cfg = s.cfg by rw [h.keeps]] at hbig
  refine ⟨t, .refl t, rfl, ?_⟩
  simp only [seqStep, h.phase, decFitStep, if_pos hbig]

theorem Accumulated.rawReady_leads (hfit : t.dp.nz.toNat + (nat2be v).length ≤ s.cfg.nb) :
    ∃ u, Leads t u ∧ RawReady (List.replicate t.dp.nz.toNat 0 ++ nat2be v) s u := by
  have hcfg : t.cfg = s.cfg := by rw [h.keeps]
  obtain ⟨⟨-, hnb⟩, -, -⟩ := hinv.config
  rw [hcfg] at hnb
  have hsize := h.size hinv
  rw [← hsize] at hfit
  have hstep : seqStep t = startPad t := by
    simp only [seqStep, h.phase, decFitStep, hcfg, if_neg hfit.not_gt, startPad]
  obtain ⟨w, hleads, hlen, hdrop⟩ := pad_leads (s := startPad t) rfl rfl hinv.workCells
    (by rw [← hcfg] at hfit; exact hfit) (by rw [← hcfg] at hnb; exact hnb.trans (by decide))
    t.dp.nz.toNat le_rfl
  refine ⟨_, (Leads.step hstep).trans hleads, ?keeps, rfl, ?padded, ?length, ?fits, ?bytes⟩
  case keeps => exact h.keeps.trans rfl
  case padded =>
    have hnz : t.dp.nz.toNat ≤ 4096 := by omega
    exact (toNat_ofNat_index hnz).ge
  case length =>
    rw [List.length_append, List.length_replicate, ← hsize]
    exact (BitVec.toNat_add ..).trans (Nat.mod_eq_of_lt (by omega))
  case fits => rwa [List.length_append, List.length_replicate, ← hsize]
  case bytes =>
    rw [List.length_append, List.length_replicate, ← hsize, ← h.number, Nat.add_comm, Nat.sub_add_eq]
    simpa only [startPad, hcfg] using hdrop

end

/-! ### The run up to the raw bytes -/

theorem lt_nat2be_length {v k : Nat} (hv : 256 ^ k ≤ v) : k < (nat2be v).length := by
  by_contra hle
  have hlt := be2nat_lt_pow (nat2be v)
  rw [be2nat_nat2be] at hlt
  exact absurd (hlt.trans_le (Nat.pow_le_pow_right (by decide) (not_lt.mp hle))) hv.not_gt

/-- The state in which the digits of the source are in `D`. -/
def scanned (d : List Digit) (s : State) : State :=
  { scanning d s.clen.toNat (startScan s) with
    dp := { (startScan s).dp with i := 0 }
    ph := .decZeros }

section
variable {s : State} (h : Inv s) (hph : s.ph = .decInit)
include h hph

omit h in
theorem seqStep_decInit_of_le (hlen : s.clen.toNat ≤ s.cfg.nc) : seqStep s = startScan s := by
  simp only [seqStep, hph, decInitStep, if_neg hlen.not_gt, startScan]

/-- The scan up to a character of the source. -/
theorem startScan_leads (hlen : s.clen.toNat ≤ s.cfg.nc) (k : Nat) (hk : k ≤ s.clen.toNat)
    (hall : ∀ i, i < k → alphaIndex s.cfg (readCbuf s i) ≠ none) :
    ∃ d, Leads s (scanning d k (startScan s)) ∧ (startScan s).dp.m.toNat = s.clen.toNat ∧
      d.take k = (digitValues s.cfg (charsBelow s k)).map (BitVec.ofNat 6) := by
  have hnc : s.cfg.nc ≤ 4096 := h.config.2.1.2
  have hm : (startScan s).dp.m.toNat = s.clen.toNat := toNat_ofNat_index (by omega)
  obtain ⟨d, hleads, -, htake⟩ := scanning_leads (s := startScan s) rfl (by rw [hm]; omega) rfl
    (by rw [hm]; exact hlen.trans_eq h.digitCells.symm) k (by rw [hm]; exact hk) hall
  exact ⟨d, (Leads.step (seqStep_decInit_of_le hph hlen)).trans hleads, hm, htake⟩

omit h in
theorem fails_of_long (hlong : s.cfg.nc < s.clen.toNat) : Fails capacityFailure s := by
  refine ⟨s, .refl s, rfl, ?_⟩
  simp only [seqStep, hph, decInitStep, if_pos hlong]

theorem fails_of_offender (hlen : s.clen.toNat ≤ s.cfg.nc) {p : Nat}
    (hp : firstOffender s.cfg (sourceChars s) = some p) :
    Fails { cause := .invalidCharacter, pos := p, char := (sourceChars s).getD p 0 } s := by
  rw [firstOffender, List.findIdx?_eq_some_iff_getElem] at hp
  obtain ⟨hplen, hnone, hfirst⟩ := hp
  have hp : p < s.clen.toNat := by rwa [sourceChars_length] at hplen
  have hread (i : Nat) (hi : i < s.clen.toNat) :
      (sourceChars s)[i]'(by rwa [sourceChars_length]) = readCbuf s i := by
    rw [← List.getD_eq_getElem _ 0 (by rwa [sourceChars_length])]
    exact charsBelow_getD s hi
  rw [hread p hp, Option.isNone_iff_eq_none] at hnone
  obtain ⟨d, hleads, hm, -⟩ := startScan_leads h hph hlen p hp.le fun i hi hi' => by
    have := hfirst i hi
    rw [hread i (hi.trans hp), hi'] at this
    exact this rfl
  have hnc : s.cfg.nc ≤ 4096 := h.config.2.1.2
  have hstep := seqStep_scanning_of_lt (s := startScan s) rfl (by omega) d (k := p) (by omega)
  have hchar : (sourceChars s).getD p 0 = readCbuf s p := charsBelow_getD s hp
  rw [show alphaIndex (startScan s).cfg (readCbuf (startScan s) p) = none from hnone] at hstep
  exact ⟨_, hleads, rfl, hchar ▸ hstep⟩

theorem scanned_leads (hlen : s.clen.toNat ≤ s.cfg.nc)
    (hnone : firstOffender s.cfg (sourceChars s) = none) :
    ∃ d, Leads s (scanned d s) ∧
      HoldsDigits (digitValues s.cfg (sourceChars s)) (scanned d s) := by
  have hdigits := map_alphaIndex_of_firstOffender_eq_none _ _ hnone
  obtain ⟨hrange, -⟩ := (map_alphaIndex_eq_map_some_iff s.cfg h.config.2.2 _ _).mp hdigits
  rw [firstOffender, List.findIdx?_eq_none_iff] at hnone
  have hall : ∀ i, i < s.clen.toNat → alphaIndex s.cfg (readCbuf s i) ≠ none := fun i hi hi' => by
    have hmem : readCbuf s i ∈ sourceChars s := List.mem_map_of_mem (List.mem_range.mpr hi)
    have hsome := hnone _ hmem
    rw [hi'] at hsome
    exact Bool.noConfusion hsome
  obtain ⟨d, hleads, hm, htake⟩ := startScan_leads h hph hlen _ le_rfl hall
  have hnc : s.cfg.nc ≤ 4096 := h.config.2.1.2
  have hidx : (scanning d s.clen.toNat (startScan s)).dp.i.toNat = s.clen.toNat :=
    toNat_ofNat_index (by omega)
  have hstep : seqStep (scanning d s.clen.toNat (startScan s)) = scanned d s := by
    have hscan : seqStep (scanning d s.clen.toNat (startScan s)) =
        decScanStep (scanning d s.clen.toNat (startScan s)) := by
      simp only [seqStep, scanning, startScan]
    rw [hscan, decScanStep, hidx]
    exact if_neg hm.le.not_gt
  have hdlen : (digitValues s.cfg (sourceChars s)).length = s.clen.toNat := by simp [digitValues]
  refine ⟨d, hleads.trans (.step hstep), hm.trans hdlen.symm, ?_, hrange⟩
  rw [hdlen]
  exact htake

/-- The digits of the source, apart from their leading zeros, are accumulated, or their number does
not fit. -/
theorem accumulated_of_source (hlen : s.clen.toNat ≤ s.cfg.nc)
    (hnone : firstOffender s.cfg (sourceChars s) = none) {nz : Nat} {e : List Nat}
    (hsplit : digitValues s.cfg (sourceChars s) = List.replicate nz 0 ++ e) (he : e.head? ≠ some 0) :
    (∃ t, Leads s t ∧ Accumulated (digits2nat e) s t ∧ t.dp.nz.toNat = nz) ∨
    (256 ^ s.cfg.nb ≤ digits2nat e ∧ Fails capacityFailure s) := by
  have hnc : s.cfg.nc ≤ 4096 := h.config.2.1.2
  have hcount := congrArg List.length hsplit
  simp only [digitValues, List.length_map, sourceChars_length, List.length_append,
    List.length_replicate] at hcount
  obtain ⟨d, hscan, hholds⟩ := scanned_leads h hph hlen hnone
  rw [hsplit] at hholds
  have hm : (scanned d s).dp.m.toNat ≤ 4096 := by rw [hholds.1]; simp; omega
  have hzeros := hscan.trans (zeroDigitsCounted_leads rfl hholds hm rfl he)
  obtain ⟨u, hu⟩ : ∃ u, zeroDigitsCounted nz (scanned d s) = u := ⟨_, rfl⟩
  rw [hu] at hzeros
  have hnz : (BitVec.ofNat 13 nz).toNat = nz := toNat_ofNat_index (by omega)
  have huwl : u.dp.wl.toNat = 0 := hu ▸ rfl
  have hkeeps : OnlyHidden s u := hu ▸ rfl
  have hcfg : u.cfg = s.cfg := by rw [hkeeps]
  have hnumber : accumulated u = 0 := by
    rw [accumulated, huwl, Nat.sub_zero, ← (hzeros.inv h).workCells, List.drop_length, be2nat_nil]
  have hloop := accumulated_leads nz e [] u (hzeros.inv h) (hu ▸ rfl) (hu ▸ hholds.congr rfl rfl)
    (hu ▸ hnz) (huwl.trans_le (Nat.zero_le _)) (.inl huwl) hnumber
  rw [List.nil_append, hcfg] at hloop
  rcases hloop with ⟨t, hleads, ⟨hkeeps', hphase, hinside, hbytes⟩, hnz'⟩ | ⟨hbig, hfails⟩
  · rw [hcfg] at hinside hbytes
    exact .inl ⟨t, hzeros.trans hleads, ⟨hkeeps.trans hkeeps', hphase, hinside, hbytes⟩,
      hnz' ▸ hu ▸ hnz⟩
  · exact .inr ⟨hbig, hfails.of_leads hzeros hkeeps⟩

/-- The two outcomes of the capacity test on the raw bytes. -/
theorem rawOf_leads (hlen : s.clen.toNat ≤ s.cfg.nc)
    (hnone : firstOffender s.cfg (sourceChars s) = none) :
    (s.cfg.nb < (rawOf (digitValues s.cfg (sourceChars s))).length → Fails capacityFailure s) ∧
    ((rawOf (digitValues s.cfg (sourceChars s))).length ≤ s.cfg.nb →
      ∃ t, Leads s t ∧ RawReady (rawOf (digitValues s.cfg (sourceChars s))) s t) := by
  obtain ⟨nz, e, hsplit, he⟩ := exists_eq_replicate_append 0 (digitValues s.cfg (sourceChars s))
  rw [hsplit, rawOf_replicate_append nz e he, List.length_append, List.length_replicate]
  rcases accumulated_of_source h hph hlen hnone hsplit he with
    ⟨t, hleads, hacc, rfl⟩ | ⟨hbig, hfails⟩
  · have hinv := hleads.inv h
    refine ⟨fun hover => (hacc.fails hinv hover).of_leads hleads hacc.keeps, fun hfit => ?_⟩
    obtain ⟨u, hpad, hraw⟩ := hacc.rawReady_leads hinv hfit
    exact ⟨u, hleads.trans hpad, hraw⟩
  · have hover := lt_nat2be_length hbig
    exact ⟨fun _ => hfails, fun hfit => absurd hfit (by omega)⟩

/-- The decoder at step level up to the raw bytes: the failure `decode_raw` gives, or its bytes in
`W`. -/
theorem decodeRaw_leads :
    (∀ f, decodeRaw s.cfg (sourceChars s) = .error f → Fails f s) ∧
    ∀ raw, decodeRaw s.cfg (sourceChars s) = .ok raw → ∃ t, Leads s t ∧ RawReady raw s t := by
  rcases Nat.lt_or_ge s.cfg.nc s.clen.toNat with hlong | hlen
  · rw [decodeRaw_of_nc_lt _ _ (by rwa [sourceChars_length])]
    exact ⟨fun f hf => Except.error.inj hf ▸ fails_of_long hph hlong, nofun⟩
  · have hlen' : (sourceChars s).length ≤ s.cfg.nc := by rwa [sourceChars_length]
    cases hoff : firstOffender s.cfg (sourceChars s) with
    | some p =>
      rw [decodeRaw_of_offender _ _ hlen' p hoff]
      exact ⟨fun f hf => Except.error.inj hf ▸ fails_of_offender h hph hlen hoff, nofun⟩
    | none =>
      obtain ⟨hover, hfit⟩ := rawOf_leads h hph hlen hoff
      rw [decodeRaw_of_digits _ _ hlen' _ (map_alphaIndex_of_firstOffender_eq_none _ _ hoff)]
      split_ifs with hbig
      · exact ⟨fun f hf => Except.error.inj hf ▸ hover hbig, nofun⟩
      · exact ⟨nofun, fun raw hraw => Except.ok.inj hraw ▸ hfit (not_lt.mp hbig)⟩

end

end Sys2Proof.Machine
end

section
/-!
PROOFS. The decoder's delivery and the tests of the checksum layer at step level (R93, R113, R114),
and that every accepted command completes (R142). Settles O58, O59 and O60.
-/

namespace Sys2Proof.Machine

/-! ### Phase `DEC_COMMIT` (R93) -/

/-- The bytes the delivery phase writes. -/
def committed (s : State) : List Byte :=
  (s.w.drop (s.cfg.nb - s.dp.rl.toNat)).take s.dp.outl.toNat

theorem committed_getD (s : State) {k : Nat} (hk : k < s.dp.outl.toNat) :
    (committed s).getD k 0 = readW s (s.cfg.nb - s.dp.rl.toNat + k) := by
  rw [committed, readW, List.getD_eq_getElem?_getD, List.getD_eq_getElem?_getD,
    List.getElem?_take_of_lt hk, List.getElem?_drop]

/-- The state after the write of one byte. -/
def commitOnce (s : State) : State :=
  writeBbuf s.dp.k.toNat ((committed s).getD s.dp.k.toNat 0)
    { s with dp := { s.dp with k := s.dp.k + 1 } }

theorem seqStep_decCommit_of_lt {s : State} (hph : s.ph = .decCommit)
    (hk : s.dp.k.toNat < s.dp.outl.toNat) : seqStep s = commitOnce s := by
  simp only [seqStep, hph, decCommitStep, if_pos hk, commitOnce, committed_getD s hk]

/-- The state when all bytes from `K` on have been written. -/
def committedAll (s : State) : State :=
  { s with
    bbuf := Memory.writeAll s.cfg.nb s.bbuf s.dp.k.toNat ((committed s).drop s.dp.k.toNat)
    dp := { s.dp with k := s.dp.outl } }

/-- The delivery, byte by byte. -/
theorem decCommit_leads (m : Nat) : ∀ s : State, s.ph = .decCommit →
    (committed s).length = s.dp.outl.toNat → s.dp.k.toNat + m = s.dp.outl.toNat →
    Leads s (committedAll s) := by
  induction m with
  | zero =>
    intro s _ hlen hm
    have hk : s.dp.k = s.dp.outl := BitVec.eq_of_toNat_eq hm
    rw [committedAll, List.drop_eq_nil_of_le (by rw [hlen, hk]), Memory.writeAll, ← hk]
    exact .refl s
  | succ m ih =>
    intro s hph hlen hm
    have hk : s.dp.k.toNat < s.dp.outl.toNat := by omega
    have hnext : (commitOnce s).dp.k.toNat = s.dp.k.toNat + 1 := toNat_add_one hk
    have hm' : (commitOnce s).dp.k.toNat + m = s.dp.outl.toNat := by omega
    have hleads := ih (commitOnce s) hph hlen hm'
    refine (Leads.step (seqStep_decCommit_of_lt hph hk)).trans ?_
    have hklen : s.dp.k.toNat < (committed s).length := by omega
    rw [committedAll, List.drop_eq_getElem_cons hklen, Memory.writeAll,
      ← List.getD_eq_getElem _ 0 hklen, ← hnext]
    exact hleads

/-- The delivery phase delivers what it writes. -/
theorem decCommit_ends {s t : State} (hkeeps : OnlyHidden s t) (hph : t.ph = .decCommit)
    (hk : t.dp.k = 0) (hlen : (committed t).length = t.dp.outl.toNat) :
    Ends t (complete (deliverBytes (committed t) s)) := by
  have hleads := decCommit_leads _ t hph hlen (by rw [hk]; exact Nat.zero_add _)
  have hlast : seqStep (committedAll t) = complete { committedAll t with
      blen := BitVec.ofNat 16 (committed t).length } := by
    rw [hlen]
    exact okCompletion.2.2.1 (committedAll t) hph le_rfl
  refine hleads.ends ⟨_, .step hlast, rfl, ?_⟩
  have hcfg : t.cfg = s.cfg := by rw [hkeeps]
  have hbbuf : t.bbuf = s.bbuf := by rw [hkeeps]
  simp only [committedAll, hk, hcfg, hbbuf]
  rw [hkeeps]
  rfl

/-- The state in which a delivery of `outl` bytes is entered. -/
def startCommit (outl : Index) (s : State) : State :=
  { s with dp := { s.dp with k := 0, outl := outl }, ph := .decCommit }

theorem startCommit_ends {raw : List Byte} {s t : State} (hkeeps : OnlyHidden s t)
    (hbytes : t.w.drop (t.cfg.nb - t.dp.rl.toNat) = raw) {outl : Index}
    (houtl : outl.toNat ≤ raw.length) :
    Ends (startCommit outl t) (complete (deliverBytes (raw.take outl.toNat) s)) := by
  have hout : committed (startCommit outl t) = raw.take outl.toNat :=
    congrArg (List.take outl.toNat) hbytes
  have hends := decCommit_ends (s := s) (t := startCommit outl t) (hkeeps.trans rfl) rfl rfl
    (by rw [hout, List.length_take, Nat.min_eq_left houtl]; rfl)
  rwa [hout] at hends

/-! ### The end of the padding (R92) -/

theorem toNat_sub_four {a : Index} (h : 4 ≤ a.toNat) : (a - 4).toNat = a.toNat - 4 := by
  bv_omega

section
variable {raw : List Byte} {s t : State} (h : RawReady raw s t)
include h

theorem RawReady.drop_eq : t.w.drop (t.cfg.nb - t.dp.rl.toNat) = raw := by
  rw [h.length, h.keeps]
  exact h.bytes

/-- `B58DEC` delivers all of them. -/
theorem RawReady.ends_of_b58dec (hop : s.op = 2) : Ends t (complete (deliverBytes raw s)) := by
  have hop' : t.op = 2 := by rw [h.keeps]; exact hop
  have hstep : seqStep t = startCommit t.dp.rl t := by
    simp only [seqStep, h.phase, decPadStep, if_neg h.padded.not_gt, hop', if_true, startCommit]
  have hends := startCommit_ends h.keeps h.drop_eq h.length.le
  rw [h.length, List.take_length] at hends
  exact (Leads.step hstep).ends hends

/-! ### The tests of the checksum layer (R113, R114) -/

/-- The state in which the length test is made. -/
def atLengthTest (s : State) : State := { s with ph := .chkLen }

theorem RawReady.atLengthTest_leads (hop : s.op ≠ 2) : Leads t (atLengthTest t) := by
  have hop' : ¬ t.op = 2 := by rw [h.keeps]; exact hop
  refine .step ?_
  simp only [seqStep, h.phase, decPadStep, if_neg h.padded.not_gt, hop', if_false, atLengthTest]

/-- Fewer than four bytes fail (R123). -/
theorem RawReady.fails_of_short (hop : s.op ≠ 2) (hshort : raw.length < 4) :
    Fails { cause := .insufficientLength, pos := raw.length, char := 0 } t := by
  have hlt : (atLengthTest t).dp.rl.toNat < Config.ckLen := h.length.trans_lt hshort
  refine ⟨_, h.atLengthTest_leads hop, rfl, ?_⟩
  rw [← h.length]
  exact if_pos hlt

/-- `t` is `s` with the raw bytes at the end of `W` and the checksum of the payload in `CK`. -/
structure PayloadHashed (raw : List Byte) (s t : State) : Prop where
  keeps : OnlyHidden s t
  phase : t.ph = .chkCmp
  length : t.dp.rl.toNat = raw.length
  enough : 4 ≤ raw.length
  fits : raw.length ≤ t.cfg.nb
  bytes : t.w.drop (t.cfg.nb - raw.length) = raw
  hash : t.sha.ck = checksum (raw.take (raw.length - 4))

/-- The state in which the checksum unit is started on the payload. -/
def startPayload (s : State) : State :=
  { s with
    dp := { s.dp with
      mb := BitVec.ofNat 13 (s.cfg.nb - s.dp.rl.toNat), ml := s.dp.rl - 4, ret := .chkCmp }
    ph := .csInit }

theorem RawReady.payloadHashed_leads (hinv : Inv t) (hop : s.op ≠ 2) (hlen : 4 ≤ raw.length) :
    ∃ u, Leads t u ∧ PayloadHashed raw s u := by
  have hcfg : t.cfg = s.cfg := by rw [h.keeps]
  have hfits : raw.length ≤ t.cfg.nb := hcfg ▸ h.fits
  have hbytes : t.w.drop (t.cfg.nb - raw.length) = raw := hcfg ▸ h.bytes
  obtain ⟨⟨-, hnb⟩, -, -⟩ := hinv.config
  have hlt : ¬ (atLengthTest t).dp.rl.toNat < Config.ckLen := (hlen.trans_eq h.length.symm).not_gt
  obtain ⟨u, hu⟩ : ∃ u, startPayload (atLengthTest t) = u := ⟨_, rfl⟩
  have hstart : seqStep (atLengthTest t) = u := (if_neg hlt).trans hu
  have huph : u.ph = .csInit := hu ▸ rfl
  have huret : u.dp.ret = .chkCmp := hu ▸ rfl
  have huw : u.w = t.w := hu ▸ rfl
  have hucfg : u.cfg = t.cfg := hu ▸ rfl
  have hurl : u.dp.rl = t.dp.rl := hu ▸ rfl
  have hmb : u.dp.mb.toNat = t.cfg.nb - raw.length := by
    have hcap : t.cfg.nb - t.dp.rl.toNat ≤ 4096 := by omega
    rw [← h.length, ← hu]
    exact toNat_ofNat_index hcap
  have hml : u.dp.ml.toNat = raw.length - 4 := by
    rw [← h.length, ← hu]
    exact toNat_sub_four (hlen.trans_eq h.length.symm)
  have hmsg : unitMessage u = raw.take (raw.length - 4) := by
    rw [unitMessage, hmb, hml, huw, hbytes]
  have hunit : seqIter (shaBlocks u.dp.ml.toNat + 3) u = checksummed u :=
    seqIter_checksum huph (by omega)
  have hinside : u.dp.mb.toNat + u.dp.ml.toNat ≤ u.w.length := by
    rw [hmb, hml, huw, hinv.workCells]; omega
  refine ⟨checksummed u,
    (h.atLengthTest_leads hop).trans ((Leads.step hstart).trans ⟨_, hunit⟩), ?_⟩
  exact {
    keeps := (h.keeps.trans (show OnlyHidden t u from hu ▸ rfl)).trans rfl
    phase := huret
    length := (congrArg BitVec.toNat hurl).trans h.length
    enough := hlen
    fits := hfits.trans_eq (congrArg Config.nb hucfg).symm
    bytes := by simp only [checksummed, huw, hucfg, hbytes]
    hash := hmsg ▸ checksumUnit_ck hinside }

end

theorem eq_iff_of_length_four {u v : List Byte} (hu : u.length = 4) (hv : v.length = 4) :
    u = v ↔ ∀ k, k < 4 → v.getD k 0 = u.getD k 0 := by
  refine ⟨fun h _ _ => h ▸ rfl, fun h => List.ext_getElem (hu.trans hv.symm) fun k hku hkv => ?_⟩
  rw [← List.getD_eq_getElem u 0 hku, ← List.getD_eq_getElem v 0 hkv, h k (hu ▸ hku)]

section
variable {raw : List Byte} {s t : State} (h : PayloadHashed raw s t)
include h

/-- The comparison in `CHK_CMP` is the test of R111. -/
theorem PayloadHashed.agrees_iff :
    checksumAgrees t = true ↔ raw.drop (raw.length - 4) = checksum (raw.take (raw.length - 4)) := by
  obtain ⟨-, -, -, henough, hfits, hbytes, hhash⟩ := h
  rw [checksumAgrees_iff, ← hhash, eq_iff_of_length_four (by rw [List.length_drop]; omega)
    (by rw [hhash, checksum_length])]
  refine forall₂_congr fun k hk => ?_
  have hidx : t.cfg.nb - raw.length + (raw.length - 4 + k) = t.cfg.nb - 4 + k := by omega
  have hread : readW t (t.cfg.nb - 4 + k) = (raw.drop (raw.length - 4)).getD k 0 := by
    rw [readW, ← hidx, List.getD_eq_getElem?_getD, List.getD_eq_getElem?_getD, List.getElem?_drop,
      ← List.getElem?_drop, hbytes]
  rw [hread]

theorem PayloadHashed.fails_of_mismatch
    (hck : raw.drop (raw.length - 4) ≠ checksum (raw.take (raw.length - 4))) :
    Fails { cause := .checksumMismatch, pos := 0, char := 0 } t := by
  refine ⟨t, .refl t, rfl, ?_⟩
  simp only [seqStep, h.phase, chkCmpStep, if_neg (mt h.agrees_iff.mp hck)]

variable (hck : raw.drop (raw.length - 4) = checksum (raw.take (raw.length - 4)))
include hck

theorem PayloadHashed.ends_of_b58chkDec (hop : s.op = 4) :
    Ends t (complete (deliverBytes (raw.take (raw.length - 4)) s)) := by
  have hop' : t.op = 4 := by rw [h.keeps]; exact hop
  have hstep : seqStep t = startCommit (t.dp.rl - 4) t := by
    simp only [seqStep, h.phase, chkCmpStep, if_pos (h.agrees_iff.mpr hck), hop', if_true,
      startCommit]
  have houtl : (t.dp.rl - 4).toNat = raw.length - 4 := by
    rw [← h.length]
    exact toNat_sub_four (h.enough.trans_eq h.length.symm)
  have hends := startCommit_ends h.keeps (by rw [h.length]; exact h.bytes)
    (houtl.trans_le (Nat.sub_le _ _))
  rw [houtl] at hends
  exact (Leads.step hstep).ends hends

theorem PayloadHashed.ends_of_b58chkValid (hop : s.op = 5) : Ends t (complete (setValid s)) := by
  have hop' : t.op = 5 := by rw [h.keeps]; exact hop
  have hstep : seqStep t = complete (setValid t) := by
    simp only [seqStep, h.phase]
    exact chkCmpStep_of_validator t hop' (h.agrees_iff.mpr hck)
  refine ⟨_, .step hstep, rfl, ?_⟩
  rw [h.keeps]
  rfl

end

/-! ### The runs of the decoder commands -/

/-- The run up to the checksum test: the failure the tests of R111 give, or the payload hashed. -/
theorem checkDecode_leads {s : State} (h : Inv s) (hph : s.ph = .decInit) (hop : s.op ≠ 2) :
    (∀ f, checkDecode s.cfg (sourceChars s) = .error f → Fails f s) ∧
    ∀ p, checkDecode s.cfg (sourceChars s) = .ok p →
      ∃ raw t, Leads s t ∧ PayloadHashed raw s t ∧ p = raw.take (raw.length - 4) ∧
        raw.drop (raw.length - 4) = checksum (raw.take (raw.length - 4)) := by
  obtain ⟨hfails, hready⟩ := decodeRaw_leads h hph
  cases hraw : decodeRaw s.cfg (sourceChars s) with
  | error g =>
    rw [checkDecode_of_error hraw]
    exact ⟨fun f hf => Except.error.inj hf ▸ hfails g hraw, nofun⟩
  | ok raw =>
    rw [checkDecode_of_ok hraw]
    obtain ⟨t, hleads, hlaid⟩ := hready raw hraw
    have hinv := hleads.inv h
    rcases Nat.lt_or_ge raw.length 4 with hshort | hlen
    · rw [verifyRaw_of_short raw hshort]
      exact ⟨fun f hf => Except.error.inj hf ▸
        (hlaid.fails_of_short hop hshort).of_leads hleads hlaid.keeps, nofun⟩
    · obtain ⟨u, hhash, hhashed⟩ := hlaid.payloadHashed_leads hinv hop hlen
      by_cases hck : raw.drop (raw.length - 4) = checksum (raw.take (raw.length - 4))
      · rw [verifyRaw_of_match raw hlen hck]
        exact ⟨nofun, fun p hp =>
          ⟨raw, u, hleads.trans hhash, hhashed, (Except.ok.inj hp).symm, hck⟩⟩
      · rw [verifyRaw_of_mismatch raw hlen hck]
        exact ⟨fun f hf => Except.error.inj hf ▸
          (hhashed.fails_of_mismatch hck).of_leads (hleads.trans hhash) hhashed.keeps, nofun⟩

section
variable {s : State} (h : Inv s)
include h

theorem b58dec_ends : Ends (accept .b58dec s) (commandBody .b58dec (accept .b58dec s)) := by
  have ha := h.accept .b58dec
  obtain ⟨hfails, hready⟩ := decodeRaw_leads ha rfl
  rw [commandBody]
  cases hraw : decodeRaw (accept .b58dec s).cfg (sourceChars (accept .b58dec s)) with
  | error f => exact (hfails f hraw).ends
  | ok raw =>
    obtain ⟨t, hleads, hlaid⟩ := hready raw hraw
    exact hleads.ends (hlaid.ends_of_b58dec rfl)

theorem b58chkDec_ends :
    Ends (accept .b58chkDec s) (commandBody .b58chkDec (accept .b58chkDec s)) := by
  have ha := h.accept .b58chkDec
  obtain ⟨hfails, hready⟩ := checkDecode_leads ha rfl (by rw [accept_op]; decide)
  rw [commandBody]
  cases hcheck : checkDecode (accept .b58chkDec s).cfg (sourceChars (accept .b58chkDec s)) with
  | error f => exact (hfails f hcheck).ends
  | ok p =>
    obtain ⟨raw, t, hleads, hhashed, rfl, hck⟩ := hready p hcheck
    exact hleads.ends (hhashed.ends_of_b58chkDec hck rfl)

theorem b58chkValid_ends :
    Ends (accept .b58chkValid s) (commandBody .b58chkValid (accept .b58chkValid s)) := by
  have ha := h.accept .b58chkValid
  obtain ⟨hfails, hready⟩ := checkDecode_leads ha rfl (by rw [accept_op]; decide)
  rw [commandBody]
  cases hcheck : checkDecode (accept .b58chkValid s).cfg (sourceChars (accept .b58chkValid s)) with
  | error f => exact (hfails f hcheck).ends
  | ok p =>
    obtain ⟨raw, t, hleads, hhashed, -, hck⟩ := hready p hcheck
    exact hleads.ends (hhashed.ends_of_b58chkValid hck rfl)

/-- The sequencer computes every command. -/
theorem command_ends (i : Instr) : Ends (accept i s) (commandBody i (accept i s)) := by
  cases i with
  | b58enc => exact b58enc_ends h
  | b58chkEnc => exact b58chkEnc_ends h
  | b58dec => exact b58dec_ends h
  | b58chkDec => exact b58chkDec_ends h
  | b58chkValid => exact b58chkValid_ends h

end

/-- Settles O58. -/
theorem decoderSequencerComputesTheCommand : Obligations.DecoderSequencerComputesTheCommand :=
  fun _ hinv hs => exec_eq_of_ends .b58dec hs (b58dec_ends hinv)

/-- Settles O59. -/
theorem checkSequencerComputesTheCommand : Obligations.CheckSequencerComputesTheCommand :=
  fun _ hinv hs i _ => exec_eq_of_ends i hs (command_ends hinv i)

/-! ### Completion (R142) -/

/-- The first `IDLE` of a run comes with `DONE`, and `BUSY` is 1 until then. -/
theorem completes_of_ends {s r : State} (h : Inv s) (hrun : s.ph ≠ .idle) (hends : Ends s r) :
    ∃ n, (seqIter n s).ph = .idle ∧ (seqIter n s).status.busy = false ∧
      (seqIter n s).status.done = true ∧ ∀ k, k < n → (seqIter k s).status.busy = true := by
  obtain ⟨_, ⟨m, rfl⟩, hidle, -⟩ := hends
  have hex : ∃ n, (seqIter n s).ph = .idle := ⟨m, hidle⟩
  have hfirst := Nat.find_spec hex
  have hbefore (k : Nat) (hk : k < Nat.find hex) : (seqIter k s).ph ≠ .idle := Nat.find_min hex hk
  refine ⟨Nat.find hex, hfirst, (h.seqIter _).idleIff.mp hfirst, ?_, fun k hk => ?_⟩
  · cases hn : Nat.find hex with
    | zero =>
      rw [hn] at hfirst
      exact absurd hfirst hrun
    | succ n =>
      rw [hn, seqIter_succ_eq_seqStep] at hfirst
      rw [seqIter_succ_eq_seqStep]
      have hmove := seqStep_move (h.seqIter n) (hbefore n (by omega))
      rcases hmove.completes_or_keeps with ⟨-, -, hdone, -⟩ | ⟨hgoes, -⟩
      · exact hdone
      · exact absurd hfirst hgoes
  · simpa using mt (h.seqIter k).idleIff.mpr (hbefore k hk)

/-- Settles O60: the word decodes to a command, whose run ends. -/
theorem acceptedCommandCompletes : Obligations.AcceptedCommandCompletes := by
  intro s v h hs hlo hhi
  obtain ⟨i, hi⟩ := (exists_decodeCommand_ok_iff _).mpr ⟨hlo, hhi⟩
  have haccept : hostWrite 0 v s = accept i s := by
    rw [hostWrite_cmd v s hs, writeCommand_of_ok v s i (by rw [commandOfPortWord_eq, hi])]
  rw [haccept]
  exact completes_of_ends (h.accept i) (ph_ne_idle_of_busy (h.accept i) rfl) (command_ends h i)

end Sys2Proof.Machine
end

section
/-!
PROOFS. The decoder of command words beside its encoder (R54, R55), and the step at every line of the
schedule (R47, R60, R135). Settles O1, O3, O11, O12, O13, O14 and O42.
-/

namespace Sys2Proof

/-! ### Decoding and encoding (R54, R55) -/

theorem decode_cons_eq_ok_iff (b : Byte) (bytes rest : List Byte) (i : Instr) :
    decode (b :: bytes) = .ok (i, rest) ↔ decodeCommand b = .ok i ∧ bytes = rest := by
  rw [decode]
  cases decodeCommand b <;> simp

/-- Settles O3: the encoding is the one byte that decodes to the command. -/
theorem decodeAndEncodeAgree : Obligations.DecodeAndEncodeAgree := by
  refine ⟨fun i rest _ => ?_, fun bytes rest i h => ?_⟩
  · exact (decode_cons_eq_ok_iff _ _ _ i).mpr ⟨(decodeCommand_eq_ok_iff _ i).mpr rfl, rfl⟩
  · cases bytes with
    | nil => cases h
    | cons b bytes =>
      obtain ⟨hb, rfl⟩ := (decode_cons_eq_ok_iff b bytes rest i).mp h
      rw [(decodeCommand_eq_ok_iff b i).mp hb]
      rfl

/-- Settles O1: each word is the encoding of its command. -/
theorem fiveCommandWordsDecode : Obligations.FiveCommandWordsDecode := by
  have h (i : Instr) : decode (encode i) = .ok (i, []) :=
    decodeAndEncodeAgree.1 i [] (by cases i <;> rfl)
  exact ⟨h .b58enc, h .b58dec, h .b58chkEnc, h .b58chkDec, h .b58chkValid, rfl, rfl⟩

end Sys2Proof

namespace Sys2Proof.Machine

/-! ### The line `RUN` (R60) -/

theorem commandLine_of_busy (v : Word) (s : State) (h : s.status.busy = true) :
    commandLine v s = .next s := if_pos h

theorem commandLine_of_ok (v : Word) (s : State) (hs : Idle s) {i : Instr}
    (hi : decodeCommand (commandOfPortWord v) = .ok i) : commandLine v s = exec i s := by
  rw [commandLine, hs, if_neg Bool.false_ne_true, hi]

theorem commandLine_of_error (v : Word) (s : State) (hs : Idle s) {e : DecodeError}
    (he : decodeCommand (commandOfPortWord v) = .error e) :
    commandLine v s = .next (illegalCommand s) := by
  rw [commandLine, hs, if_neg Bool.false_ne_true, he]

/-- Settles O11. -/
theorem stepRunsTheDecodedCommand : Obligations.StepRunsTheDecodedCommand := by
  intro s v rest i hs hidle hi
  rw [step_cons s _ rest hs, scriptLine]
  exact commandLine_of_ok v { s with script := .wait :: rest } hidle hi

/-- Settles O13: the word placed decodes to the command, and the block has been made idle. -/
theorem placedWordRunsNext : Obligations.PlacedWordRunsNext := by
  intro s i
  have hi : decodeCommand (commandOfPortWord (portWordOfBits 8 (opcodeOf i).toNat)) = .ok i := by
    cases i <;> rfl
  exact stepRunsTheDecodedCommand _ _ s.script i rfl rfl hi

/-! ### The other lines -/

/-- A turn of `WAIT` that does not find `DONE` reads `STATUS` and keeps the line (R60). -/
theorem scriptLine_wait_of_not_done (s : State) (rest : List ScriptLine)
    (hs : s.script = .wait :: rest) (h : s.status.done = false) :
    scriptLine .wait { s with script := rest } = .next (seqStep (hostRead 1 s)) := by
  have hkeep : { hostRead statusIndex { s with script := rest } with script := .wait :: rest } =
      hostRead statusIndex s := by
    rw [← hs]
    rfl
  rw [scriptLine, waitLine, if_neg (by rw [h]; exact Bool.false_ne_true), hkeep]
  rfl

/-- Settles O12: each clause is the line at the schedule's head. -/
theorem stepTakesTheOtherLines : Obligations.StepTakesTheOtherLines := by
  intro s rest
  refine ⟨step_nil s, step_cons s _ rest, fun x => step_cons s _ rest, fun hs hdone => ?wait,
    fun hs hdone => ?again, fun v hs hbusy => ?busy, fun v e hs hidle he => ?illegal,
    fun lost => step_cons s _ rest⟩
  case wait =>
    rw [step_cons s _ rest hs, scriptLine, waitLine, if_pos hdone]
    rfl
  case again => rw [step_cons s _ rest hs, scriptLine_wait_of_not_done s rest hs hdone]
  case busy =>
    rw [step_cons s _ rest hs]
    exact commandLine_of_busy v { s with script := .wait :: rest } hbusy
  case illegal =>
    rw [step_cons s _ rest hs, scriptLine]
    exact commandLine_of_error v { s with script := .wait :: rest } hidle he

/-! ### No step stops -/

theorem safe_exec (i : Instr) (s : State) : Safe (exec i s) := by
  cases hbusy : s.status.busy with
  | true => exact ⟨s, exec_of_busy i s hbusy⟩
  | false => exact ⟨_, exec_of_idle i s hbusy⟩

theorem safe_commandLine (v : Word) (s : State) : Safe (commandLine v s) := by
  cases hbusy : s.status.busy with
  | true => exact ⟨s, commandLine_of_busy v s hbusy⟩
  | false =>
    cases hv : decodeCommand (commandOfPortWord v) with
    | ok i =>
      rw [commandLine_of_ok v s hbusy hv]
      exact safe_exec i s
    | error e => exact ⟨_, commandLine_of_error v s hbusy hv⟩

/-- Settles O14: every line answers a next state, and so does the end of the schedule. -/
theorem noStepStops : Obligations.NoStepStops := by
  intro s
  cases hs : s.script with
  | nil => exact ⟨_, step_nil s hs⟩
  | cons l rest =>
    rw [step_cons s l rest hs]
    cases l with
    | access x => exact ⟨_, rfl⟩
    | sequencer => exact ⟨_, rfl⟩
    | wait => exact ⟨_, rfl⟩
    | run v => exact safe_commandLine v _
    | rst lost => exact ⟨_, rfl⟩

/-! ### A reset period (R135) -/

/-- The access made in a reset period touches the host's log and the count of free words alone. -/
theorem lostAccess_eq (x : Option Access) (s : State) :
    lostAccess x s =
      { s with readLog := (lostAccess x s).readLog, draws := (lostAccess x s).draws } := by
  match x with
  | none | some (.write _ _) | some (.read _) => rfl

theorem lostAccess_readLog_of_not_read (x : Option Access) (hx : ¬ ∃ a, x = some (.read a))
    (s : State) :
    (lostAccess x s).readLog = s.readLog := by
  match x with
  | none | some (.write _ _) => rfl
  | some (.read a) => exact absurd ⟨a, rfl⟩ hx

/-- Settles O42: the reset block has its reset values and no cell written, and the lost access changes
neither. -/
theorem resetPeriod : Obligations.ResetPeriod := by
  intro s lost rest hs
  refine ⟨_, step_cons s _ rest hs, ?_⟩
  rw [lostAccess_eq]
  refine ⟨rfl, rfl, rfl, rfl, rfl, rfl, rfl, fun _ => rfl, fun _ => rfl, ?_, fun hx => ?_⟩
  · rintro ⟨a, rfl⟩
    rfl
  · exact lostAccess_readLog_of_not_read lost hx _

end Sys2Proof.Machine
end

section
/-!
PROOFS. The port: the fields of the register words (R16, R17, R20), reads and writes while a command
runs (R48, R49), writes made twice, and the load pseudo-lines (R60). Settles O6, O9, O10, O48 and O56.
-/

namespace Sys2Proof.Machine

/-! ### The register words (10_state.md section 2) -/

/-- A slot that is no data slot is read exactly, whether or not a command runs (R49). -/
theorem hostReadValue_of_exact (s : State) (a : PortIndex) {p : PortSlot}
    (hp : portSlot s.cfg a = p) (h : isDataSlot p = false) : hostReadValue s a = slotWord s p := by
  rw [hostReadValue, readUnspecified, hp, h, Bool.and_false, if_neg Bool.false_ne_true]

theorem statusWord_fields (st : Status) :
    (statusWord st).getLsbD 0 = st.busy ∧ (statusWord st).getLsbD 1 = st.done ∧
      (statusWord st).getLsbD 2 = st.valid ∧ (statusWord st).getLsbD 3 = false ∧
      (statusWord st).extractLsb' 4 3 = st.err ∧ (statusWord st).extractLsb' 7 25 = 0 := by
  refine ⟨by simp [statusWord], by simp [statusWord], by simp [statusWord], by simp [statusWord],
    ?err, ?reserved⟩
  case err => ext i hi; grind [statusWord]
  case reserved => ext i hi; grind [statusWord]

theorem errInfoWord_fields (e : ErrInfo) :
    (errInfoWord e).extractLsb' 0 16 = e.pos ∧ (errInfoWord e).extractLsb' 16 8 = e.char ∧
      (errInfoWord e).extractLsb' 24 3 = e.cause ∧ (errInfoWord e).extractLsb' 27 5 = 0 := by
  refine ⟨?pos, ?char, ?cause, ?reserved⟩
  case pos => ext i hi; grind [errInfoWord]
  case char => ext i hi; grind [errInfoWord]
  case cause => ext i hi; grind [errInfoWord]
  case reserved => ext i hi; grind [errInfoWord]

theorem capWord_fields (c : Config) :
    (capWord c).extractLsb' 0 16 = BitVec.ofNat 16 c.nb ∧
      (capWord c).extractLsb' 16 16 = BitVec.ofNat 16 c.nc := by
  refine ⟨?nb, ?nc⟩
  case nb => ext i hi; grind [capWord]
  case nc => ext i hi; grind [capWord]

/-- Settles O6: the three registers are no data slots, so they are read exactly. -/
theorem registerWordLayouts : Obligations.RegisterWordLayouts := by
  intro s hc
  obtain ⟨⟨-, hnb⟩, ⟨-, hnc⟩, -⟩ := hc
  rw [hostReadValue_of_exact s 1 (portSlot_status _ _ rfl) rfl,
    hostReadValue_of_exact s 2 (portSlot_errinfo _ _ rfl) rfl,
    hostReadValue_of_exact s 5 (portSlot_cap _ _ rfl) rfl]
  obtain ⟨hcapNb, hcapNc⟩ := capWord_fields s.cfg
  refine ⟨statusWord_fields s.status, errInfoWord_fields s.errinfo, ⟨?nb, ?nc⟩,
    (statusWord_fields s.status).2.1.symm⟩
  case nb => rw [slotWord, hcapNb, BitVec.toNat_ofNat, Nat.mod_eq_of_lt (by omega)]
  case nc => rw [slotWord, hcapNc, BitVec.toNat_ofNat, Nat.mod_eq_of_lt (by omega)]

/-! ### Reads while a command runs (R49) -/

theorem hostRead_of_busy_data {s : State} (hbusy : s.status.busy = true) (a : PortIndex)
    {p : PortSlot} (hp : portSlot s.cfg a = p) (h : isDataSlot p = true) :
    hostReadValue s a = Config.freeReadWord s.draws ∧ (hostRead a s).draws = s.draws + 1 := by
  have hfree : readUnspecified s a = true := by rw [readUnspecified, hbusy, hp, h]; rfl
  exact ⟨if_pos hfree, if_pos hfree⟩

/-- Settles O9: the slot of the index decides; `Inv` gives the value of `STATUS` and `ERRINFO`. -/
theorem busyReads : Obligations.BusyReads := by
  intro a s hinv hbusy
  obtain ⟨hstatus, hinfo⟩ := hinv.runningClear hbusy
  have hnb : s.cfg.nbInRange := hinv.config.1
  refine ⟨fun ha => ?cmd, fun ha => ?status, fun ha => ?errinfo, fun ha => ?cap, fun ha => ?reserved,
    ?data, hostRead_eq a s⟩
  case cmd => exact hostReadValue_of_exact s a (portSlot_cmd _ a ha) rfl
  case status =>
    rw [hostReadValue_of_exact s a (portSlot_status _ a ha) rfl, slotWord, hstatus]
    rfl
  case errinfo =>
    rw [hostReadValue_of_exact s a (portSlot_errinfo _ a ha) rfl, slotWord, hinfo]
    rfl
  case cap => exact hostReadValue_of_exact s a (portSlot_cap _ a ha) rfl
  case reserved => exact hostReadValue_of_exact s a (portSlot_reserved _ hnb a ha) rfl
  case data =>
    rintro (ha | ha | ⟨hlo, hhi⟩ | ⟨hlo, hhi⟩)
    · exact hostRead_of_busy_data hbusy a (portSlot_blen _ a ha) rfl
    · exact hostRead_of_busy_data hbusy a (portSlot_clen _ a ha) rfl
    · exact hostRead_of_busy_data hbusy a
        (portSlot_bbuf _ a (a.toNat - 0x1000) (by omega) (by omega)) rfl
    · exact hostRead_of_busy_data hbusy a
        (portSlot_cbuf _ hnb a (a.toNat - 0x2000) (by omega) (by omega)) rfl

/-! ### Writes made twice (20_memory.md section 4) -/

theorem Memory.insert_insert (m : Memory) (i : Nat) (v : Byte) :
    Memory.insert (Memory.insert m i v) i v = Memory.insert m i v := by
  induction m with
  | nil => simp [Memory.insert]
  | cons c rest ih =>
    obtain ⟨a, u⟩ := c
    rcases Nat.lt_trichotomy i a with hlt | rfl | hgt
    · simp [Memory.insert, hlt]
    · simp [Memory.insert]
    · simp [Memory.insert, hgt.not_gt, hgt.ne', ih]

theorem Memory.write_write (size : Nat) (m : Memory) (i : Nat) (v : Byte) :
    Memory.write size (Memory.write size m i v) i v = Memory.write size m i v := by
  by_cases hi : i < size
  · simp only [Memory.write, if_pos hi, Memory.insert_insert]
  · simp only [Memory.write, if_neg hi]

/-- Settles O10: by the slot of the index, which is not `CMD`. -/
theorem dataWritesAreIdempotent : Obligations.DataWritesAreIdempotent := by
  intro a v s ha
  cases hbusy : s.status.busy with
  | true => rw [hostWrite_of_busy a v s hbusy, hostWrite_of_busy a v s hbusy]
  | false =>
    cases hp : portSlot s.cfg a with
    | cmd => exact absurd hp (portSlot_ne_cmd s.cfg ha)
    | blen => rw [hostWrite_of_blen hbusy v hp, hostWrite_of_blen (by exact hbusy) v (by exact hp)]
    | clen => rw [hostWrite_of_clen hbusy v hp, hostWrite_of_clen (by exact hbusy) v (by exact hp)]
    | bbuf i =>
      rw [hostWrite_of_bbuf hbusy v hp, hostWrite_of_bbuf (by exact hbusy) v (by exact hp)]
      simp only [writeBbuf, Memory.write_write]
    | cbuf i =>
      rw [hostWrite_of_cbuf hbusy v hp, hostWrite_of_cbuf (by exact hbusy) v (by exact hp)]
      simp only [writeCbuf, Memory.write_write]
    | status | errinfo | cap | reserved =>
      rw [hostWrite_of_unwritable a v s (by simp [hp]), hostWrite_of_unwritable a v s (by simp [hp])]

/-! ### Writes while a command runs (R48) -/

/-- Settles O48, by induction on the lines: a write on a busy block changes nothing. -/
theorem busyWritesDoNotDisturb : Obligations.BusyWritesDoNotDisturb := by
  intro ls
  induction ls with
  | nil => exact fun s _ _ => rfl
  | cons l ls ih =>
    intro s hls hbusy
    have hnow : s.status.busy = true := hbusy [] List.nil_prefix
    have hlater : ∀ p, p <+: ls → (p.foldl applyLine (applyLine s l)).status.busy = true :=
      fun p hp => hbusy (l :: p) ((List.prefix_cons_inj l).mpr hp)
    have hrest := ih (applyLine s l) (fun x hx => hls x (List.mem_cons_of_mem l hx)) hlater
    rw [List.foldl_cons, hrest]
    match l, hls l List.mem_cons_self with
    | .sequencer, _ => rw [List.count_cons_self]; rfl
    | .access (.write a v), _ =>
      have hne : ScriptLine.access (.write a v) ≠ .sequencer := nofun
      rw [List.count_cons_of_ne hne, applyLine, hostAccess, hostWrite_of_busy a v s hnow]

/-! ### The load pseudo-lines (R60) -/

theorem runSteps_succ_of_next {s t : State} (h : step s = .next t) (n : Nat) :
    runSteps (n + 1) s = runSteps n t := by
  rw [runSteps, h]

theorem step_write {s : State} {a : PortIndex} {v : Word} {rest : List ScriptLine}
    (h : s.script = .access (.write a v) :: rest) :
    step s = .next (hostWrite a v { s with script := rest }) := step_cons s _ rest h

theorem toNat_portIndex {i : Nat} (hi : i < 2 ^ 14) : (BitVec.ofNat 14 i).toNat = i := by
  rw [BitVec.toNat_ofNat, Nat.mod_eq_of_lt hi]

theorem extractLsb'_setWidth_byte (v : Byte) : (v.setWidth 32).extractLsb' 0 8 = v := by
  rw [← BitVec.setWidth_eq_extractLsb' (by decide), BitVec.setWidth_setWidth_of_le v (by decide),
    BitVec.setWidth_eq]

theorem extractLsb'_ofNat_length (n : Nat) :
    (BitVec.ofNat 32 n).extractLsb' 0 16 = BitVec.ofNat 16 n := by
  rw [← BitVec.setWidth_eq_extractLsb' (by decide), BitVec.setWidth_ofNat_of_le (by decide)]

/-- The cell lines of `LOADB` are the writes of `BBUF` from cell `i` on. -/
theorem runSteps_loadCells_bbuf (n : Nat) (vs : List Byte) (i : Nat) (s : State)
    (rest : List ScriptLine) (hnb : s.cfg.nbInRange) (hs : Idle s) (hi : i + vs.length ≤ s.cfg.nb)
    (h : s.script = loadCells (0x1000 + i) vs ++ rest) :
    runSteps (vs.length + n) s =
      runSteps n { s with script := rest, bbuf := Memory.writeAll s.cfg.nb s.bbuf i vs } := by
  induction vs generalizing i s with
  | nil =>
    obtain rfl : s.script = rest := h
    rw [List.length_nil, Nat.zero_add]
    rfl
  | cons v vs ih =>
    rw [List.length_cons] at hi
    have hmax : s.cfg.nb ≤ 2730 := hnb.2
    have hlater : i + 1 + vs.length ≤ s.cfg.nb := by omega
    have hslot : portSlot s.cfg (BitVec.ofNat 14 (0x1000 + i)) = .bbuf i :=
      portSlot_bbuf _ _ i (by omega) (toNat_portIndex (by omega))
    have hstep : step s = .next (writeBbuf i v
        { s with script := loadCells (0x1000 + (i + 1)) vs ++ rest }) := by
      rw [step_write h, hostWrite_of_bbuf (by exact hs) _ (by exact hslot), extractLsb'_setWidth_byte]
      rfl
    rw [List.length_cons, Nat.add_right_comm, runSteps_succ_of_next hstep]
    exact ih (i + 1) (writeBbuf i v { s with script := loadCells (0x1000 + (i + 1)) vs ++ rest })
      hnb hs hlater rfl

/-- The cell lines of `LOADC` are the writes of `CBUF` from cell `i` on. -/
theorem runSteps_loadCells_cbuf (n : Nat) (vs : List Byte) (i : Nat) (s : State)
    (rest : List ScriptLine) (hc : s.cfg.wf) (hs : Idle s) (hi : i + vs.length ≤ s.cfg.nc)
    (h : s.script = loadCells (0x2000 + i) vs ++ rest) :
    runSteps (vs.length + n) s =
      runSteps n { s with script := rest, cbuf := Memory.writeAll s.cfg.nc s.cbuf i vs } := by
  induction vs generalizing i s with
  | nil =>
    obtain rfl : s.script = rest := h
    rw [List.length_nil, Nat.zero_add]
    rfl
  | cons v vs ih =>
    rw [List.length_cons] at hi
    have hmax : s.cfg.nc ≤ 4096 := hc.2.1.2
    have hlater : i + 1 + vs.length ≤ s.cfg.nc := by omega
    have hslot : portSlot s.cfg (BitVec.ofNat 14 (0x2000 + i)) = .cbuf i :=
      portSlot_cbuf _ hc.1 _ i (by omega) (toNat_portIndex (by omega))
    have hstep : step s = .next (writeCbuf i v
        { s with script := loadCells (0x2000 + (i + 1)) vs ++ rest }) := by
      rw [step_write h, hostWrite_of_cbuf (by exact hs) _ (by exact hslot), extractLsb'_setWidth_byte]
      rfl
    rw [List.length_cons, Nat.add_right_comm, runSteps_succ_of_next hstep]
    exact ih (i + 1) (writeCbuf i v { s with script := loadCells (0x2000 + (i + 1)) vs ++ rest })
      hc hs hlater rfl

theorem runSteps_loadB (s : State) (vs : List Byte) (rest : List ScriptLine)
    (hnb : s.cfg.nbInRange) (hs : Idle s) (hlen : vs.length ≤ s.cfg.nb)
    (h : s.script = loadB vs ++ rest) :
    runSteps (vs.length + 1) s = .next (deliverBytes vs { s with script := rest }) := by
  rw [loadB, List.append_assoc] at h
  rw [runSteps_loadCells_bbuf 1 vs 0 s _ hnb hs (by omega) h, runSteps_succ_of_next (step_write rfl),
    hostWrite_of_blen (by exact hs) _ (portSlot_blen _ _ rfl), extractLsb'_ofNat_length]
  rfl

theorem runSteps_loadC (s : State) (vs : List Byte) (rest : List ScriptLine) (hc : s.cfg.wf)
    (hs : Idle s) (hlen : vs.length ≤ s.cfg.nc) (h : s.script = loadC vs ++ rest) :
    runSteps (vs.length + 1) s = .next (deliverChars vs { s with script := rest }) := by
  rw [loadC, List.append_assoc] at h
  rw [runSteps_loadCells_cbuf 1 vs 0 s _ hc hs (by omega) h, runSteps_succ_of_next (step_write rfl),
    hostWrite_of_clen (by exact hs) _ (portSlot_clen _ _ rfl), extractLsb'_ofNat_length]
  rfl

/-- Settles O56: a load pseudo-line delivers its bytes as a command delivers its result. -/
theorem loadLinesFillTheBuffers : Obligations.LoadLinesFillTheBuffers := by
  intro s vs rest hc hs
  refine ⟨fun hlen h => ⟨_, runSteps_loadB s vs rest hc.1 hs hlen h, rfl, ?bytes, ⟨rfl, fun _ => rfl⟩,
    rfl, rfl, rfl⟩, fun hlen h => ⟨_, runSteps_loadC s vs rest hc hs hlen h, rfl, ?chars,
    ⟨rfl, fun _ => rfl⟩, rfl, rfl, rfl⟩⟩
  case bytes => exact deliverBytes_delivered vs { s with script := rest } hc.1 hlen
  case chars => exact deliverChars_delivered vs { s with script := rest } hc.2.1 hlen

end Sys2Proof.Machine
end

section
/-!
PROOFS. The corner cases of the encoder (R64), what a command's result depends on (R14), and the order
of the tests (R127). Settles O28, O50 and O54.
-/

namespace Sys2Proof.Machine

/-! ### Corner cases of the encoder (R64) -/

theorem takeWhile_replicate_append {α : Type} [BEq α] [LawfulBEq α] (z : α) (n : Nat) (e : List α)
    (he : e.head? ≠ some z) :
    (List.replicate n z ++ e).takeWhile (· == z) = List.replicate n z :=
  List.eq_replicate_iff.mpr ⟨length_takeWhile_replicate_append z n e he,
    fun _ hb => eq_of_beq (List.mem_takeWhile_imp (p := (· == z)) hb)⟩

theorem alphaAt_inj {c : Config} (hc : c.alphaDistinct) {d e : Nat} (hd : d < 58) (he : e < 58)
    (h : alphaAt c d = alphaAt c e) : d = e := by
  have hindex := (alphaIndex_eq_some_iff c hc (alphaAt c e) d).mpr ⟨hd, h⟩
  exact Option.some.inj (hindex.symm.trans ((alphaIndex_eq_some_iff c hc _ e).mpr ⟨he, rfl⟩))

theorem head?_map_alphaAt_digits58_ne (c : Config) (hc : c.alphaDistinct) (v : Nat) :
    ((digits58 v).map (alphaAt c)).head? ≠ some (alphaAt c 0) := by
  intro h
  rw [List.head?_map] at h
  obtain ⟨d, hd, hchar⟩ := Option.map_eq_some_iff.mp h
  have hlt := lt_58_of_mem_digits58 v d (List.mem_of_mem_head? hd)
  obtain rfl := alphaAt_inj hc hlt (by decide) hchar
  exact digits58_head?_ne_zero v hd

theorem digits58_length {v : Nat} (hv : v ≠ 0) : (digits58 v).length = Nat.log 58 v + 1 := by
  rw [digits58, digitsIn_eq_reverse_digits 58 (by decide), List.length_reverse,
    Nat.length_digits 58 v (by decide) hv]

theorem be2nat_drop_nzeros_ne_zero (s : List Byte) (h : nzeros s < s.length) :
    be2nat (s.drop (nzeros s)) ≠ 0 := by
  have hpos := be2nat_take_pos h le_rfl (getD_of_lt_nzeros s) (getD_nzeros_ne_zero s h)
  rw [List.take_length] at hpos
  rw [be2nat_drop_nzeros]
  exact hpos.ne'

theorem encodeOut_replicate_zero (c : Config) (n : Nat) :
    encodeOut c (List.replicate n 0) = List.replicate n (alphaAt c 0) := by
  have h := encodeOut_replicate_append c n [] nofun
  rwa [List.append_nil, be2nat_nil, digits58_zero, List.append_nil, List.map_replicate] at h

/-- Settles O28. -/
theorem encoderCornerCases : Obligations.EncoderCornerCases := by
  intro c hc
  refine ⟨encodeOut_replicate_zero c 0, encodeOut_replicate_zero c, fun s => ?zeros,
    fun s ch hch => ?chars, fun s hs => ?length⟩
  case zeros =>
    exact takeWhile_replicate_append _ _ _ (head?_map_alphaAt_digits58_ne c hc.2.2 _)
  case chars =>
    obtain ⟨d, hout, hd, -⟩ := exists_digits_encodeOut c s
    rw [hout] at hch
    obtain ⟨x, hx, rfl⟩ := List.mem_map.mp hch
    exact ⟨x, hd x hx, rfl⟩
  case length =>
    rw [encodeOut_length, digits58_length (be2nat_drop_nzeros_ne_zero s hs), Nat.add_assoc]

/-! ### What a result depends on (R14) -/

theorem sourceBytes_congr {s t : State} (hlen : s.blen = t.blen)
    (h : ∀ k, k < s.blen.toNat → readBbuf s k = readBbuf t k) : sourceBytes s = sourceBytes t := by
  rw [sourceBytes, sourceBytes, ← hlen]
  exact List.map_congr_left fun k hk => h k (List.mem_range.mp hk)

theorem sourceChars_congr {s t : State} (hlen : s.clen = t.clen)
    (h : ∀ k, k < s.clen.toNat → readCbuf s k = readCbuf t k) : sourceChars s = sourceChars t := by
  rw [sourceChars, sourceChars, ← hlen]
  exact List.map_congr_left fun k hk => h k (List.mem_range.mp hk)

/-- The host reads the same characters below the length from both blocks. -/
def SameCharsBelow (u v : State) : Prop :=
  u.clen = v.clen ∧ ∀ k, k < u.clen.toNat → readCbuf u k = readCbuf v k

/-- The host reads the same bytes below the length from both blocks. -/
def SameBytesBelow (u v : State) : Prop :=
  u.blen = v.blen ∧ ∀ k, k < u.blen.toNat → readBbuf u k = readBbuf v k

theorem CharsDelivered.sameBelow {out : List Byte} {s t u v : State} (hu : CharsDelivered out s u)
    (hv : CharsDelivered out t v) : SameCharsBelow u v := by
  obtain ⟨hulen, hu, -⟩ := hu
  obtain ⟨hvlen, hv, -⟩ := hv
  refine ⟨BitVec.eq_of_toNat_eq (hulen.trans hvlen.symm), fun k hk => ?_⟩
  rw [hulen] at hk
  rw [hu k hk, hv k hk]

theorem BytesDelivered.sameBelow {out : List Byte} {s t u v : State} (hu : BytesDelivered out s u)
    (hv : BytesDelivered out t v) : SameBytesBelow u v := by
  obtain ⟨hulen, hu, -⟩ := hu
  obtain ⟨hvlen, hv, -⟩ := hv
  refine ⟨BitVec.eq_of_toNat_eq (hulen.trans hvlen.symm), fun k hk => ?_⟩
  rw [hulen] at hk
  rw [hu k hk, hv k hk]

theorem SameCharsBelow.of_zero {u v : State} (hu : u.clen = 0) (hv : v.clen = 0) :
    SameCharsBelow u v := by
  refine ⟨hu.trans hv.symm, fun k hk => ?_⟩
  rw [hu] at hk
  exact absurd hk (Nat.not_lt_zero k)

theorem SameBytesBelow.of_zero {u v : State} (hu : u.blen = 0) (hv : v.blen = 0) :
    SameBytesBelow u v := by
  refine ⟨hu.trans hv.symm, fun k hk => ?_⟩
  rw [hu] at hk
  exact absurd hk (Nat.not_lt_zero k)

/-- Two blocks with one report. -/
def SameReport (u v : State) : Prop := u.status = v.status ∧ u.errinfo = v.errinfo

theorem ReportsSuccess.sameReport {valid : Bool} {u v : State} (hu : ReportsSuccess valid u)
    (hv : ReportsSuccess valid v) : SameReport u v :=
  ⟨hu.1.trans hv.1.symm, hu.2.trans hv.2.symm⟩

theorem ReportsFailure.sameReport {f : Failure} {u v : State} (hu : ReportsFailure f u)
    (hv : ReportsFailure f v) : SameReport u v :=
  ⟨hu.1.trans hv.1.symm, hu.2.trans hv.2.symm⟩

section
variable (i : Instr) {s t : State} (hc : s.cfg.wf) (hcfg : t.cfg = s.cfg)
include hc hcfg

/-- An encoder on two blocks with one source. -/
theorem encodeWith_sameResult (hi : opcodeOf i = 1 ∨ opcodeOf i = 3) (extra : Nat)
    (work : List Byte → List Byte) (hwork : ∀ b, (work b).length = b.length + extra)
    (hlen : s.blen = t.blen) (hsrc : sourceBytes s = sourceBytes t) :
    SameReport (encodeWith extra work (accept i s)) (encodeWith extra work (accept i t)) ∧
      SameCharsBelow (encodeWith extra work (accept i s)) (encodeWith extra work (accept i t)) := by
  rcases Nat.lt_or_ge s.cfg.nb (s.blen.toNat + extra) with hlong | hfit
  · obtain ⟨hs, hszero, -⟩ := encodeWith_accept_of_lt i hi extra work s hlong _ rfl
    obtain ⟨ht, htzero, -⟩ :=
      encodeWith_accept_of_lt i hi extra work t (by rwa [hcfg, ← hlen]) _ rfl
    exact ⟨hs.sameReport ht, .of_zero hszero htzero⟩
  · have hout : (work (sourceBytes s)).length ≤ s.cfg.nb := by
      rwa [hwork, sourceBytes_length]
    obtain ⟨hs, hsout, -⟩ := encodeWith_accept_of_le i extra work s hc hfit hout _ rfl
    obtain ⟨ht, htout, -⟩ := encodeWith_accept_of_le i extra work t (hcfg ▸ hc)
      (by rwa [hcfg, ← hlen]) (by rwa [hcfg, ← hsrc]) _ rfl
    rw [hcfg, ← hsrc] at htout
    exact ⟨hs.sameReport ht, hsout.sameBelow htout⟩

/-- A decoder's delivery of one outcome on two blocks. -/
theorem deliverOrFail_sameResult (hi : opcodeOf i = 2 ∨ opcodeOf i = 4)
    (r : Except Failure (List Byte)) (hr : ∀ out, r = .ok out → out.length ≤ s.cfg.nb) :
    SameReport (deliverOrFail r (accept i s)) (deliverOrFail r (accept i t)) ∧
      SameBytesBelow (deliverOrFail r (accept i s)) (deliverOrFail r (accept i t)) := by
  cases r with
  | error f =>
    obtain ⟨hs, hszero, -⟩ := failWith_accept_of_decoder i hi f s _ rfl
    obtain ⟨ht, htzero, -⟩ := failWith_accept_of_decoder i hi f t _ rfl
    exact ⟨hs.sameReport ht, .of_zero hszero htzero⟩
  | ok out =>
    have hfit := hr out rfl
    obtain ⟨hs, hsout, -⟩ := complete_deliverBytes_accept i out s hc hfit _ rfl
    obtain ⟨ht, htout, -⟩ :=
      complete_deliverBytes_accept i out t (hcfg ▸ hc) (hcfg ▸ hfit) _ rfl
    exact ⟨hs.sameReport ht, hsout.sameBelow htout⟩

end

theorem answerValid_sameReport (i : Instr) (s t : State) (r : Except Failure (List Byte)) :
    SameReport (answerValid r (accept i s)) (answerValid r (accept i t)) := by
  cases r <;> exact ⟨rfl, rfl⟩

theorem commandBody_sameChars {s t : State} (hc : s.cfg.wf) (hcfg : t.cfg = s.cfg)
    (hlen : s.blen = t.blen) (hsrc : sourceBytes s = sourceBytes t) (i : Instr)
    (hi : i = .b58enc ∨ i = .b58chkEnc) :
    SameReport (commandBody i (accept i s)) (commandBody i (accept i t)) ∧
      SameCharsBelow (commandBody i (accept i s)) (commandBody i (accept i t)) := by
  rcases hi with rfl | rfl
  · exact encodeWith_sameResult _ hc hcfg (.inl rfl) 0 id (fun _ => rfl) hlen hsrc
  · exact encodeWith_sameResult _ hc hcfg (.inr rfl) Config.ckLen (fun p => p ++ checksum p)
      (fun p => by simp [Config.ckLen]) hlen hsrc

theorem commandBody_sameBytes {s t : State} (hc : s.cfg.wf) (hcfg : t.cfg = s.cfg)
    (hsrc : sourceChars s = sourceChars t) (i : Instr) (hi : i = .b58dec ∨ i = .b58chkDec) :
    SameReport (commandBody i (accept i s)) (commandBody i (accept i t)) ∧
      SameBytesBelow (commandBody i (accept i s)) (commandBody i (accept i t)) := by
  rcases hi with rfl | rfl
  · rw [commandBody, commandBody, accept_cfg, accept_cfg, sourceChars_accept, sourceChars_accept,
      hcfg, ← hsrc]
    exact deliverOrFail_sameResult _ hc hcfg (.inl rfl) _ (decodeRaw_length_le _ _)
  · rw [commandBody, commandBody, accept_cfg, accept_cfg, sourceChars_accept, sourceChars_accept,
      hcfg, ← hsrc]
    exact deliverOrFail_sameResult _ hc hcfg (.inr rfl) _ (checkDecode_length_le _ _)

/-- Settles O50: the source decides the report and what is delivered. -/
theorem resultDependsOnlyOnTheSource : Obligations.ResultDependsOnlyOnTheSource := by
  intro s t hc hcfg hs ht
  refine ⟨fun hlen hcells i hi => ⟨_, _, exec_of_idle i s hs, exec_of_idle i t ht, ?encoders⟩,
    fun hlen hcells => ?decoders⟩
  case encoders =>
    obtain ⟨⟨hstatus, hinfo⟩, hclen, hout⟩ :=
      commandBody_sameChars hc hcfg hlen (sourceBytes_congr hlen hcells) i hi
    exact ⟨hstatus, hinfo, hclen, hout⟩
  case decoders =>
    have hsrc := sourceChars_congr hlen hcells
    refine ⟨fun i hi => ⟨_, _, exec_of_idle i s hs, exec_of_idle i t ht, ?bytes⟩,
      _, _, exec_of_idle _ s hs, exec_of_idle _ t ht, ?valid⟩
    case bytes =>
      obtain ⟨⟨hstatus, hinfo⟩, hblen, hout⟩ := commandBody_sameBytes hc hcfg hsrc i hi
      exact ⟨hstatus, hinfo, hblen, hout⟩
    case valid =>
      rw [commandBody, commandBody, accept_cfg, accept_cfg, sourceChars_accept, sourceChars_accept,
        hcfg, ← hsrc]
      exact answerValid_sameReport _ s t _

/-! ### The order of the tests (R127) -/

/-- The code of the cause an outcome records, 0 for a success. -/
def recordedCause (r : Except Failure (List Byte)) : Code :=
  match r with
  | .error f => causeCode f.cause
  | .ok _ => 0

theorem encodeWith_cause (i : Instr) (extra : Nat) (work : List Byte → List Byte) (s : State) :
    (encodeWith extra work (accept i s)).errinfo.cause =
      if s.cfg.nb < s.blen.toNat + extra then 5 else 0 := by
  split_ifs with hlong
  · rw [encodeWith_of_lt extra work (accept i s) hlong]
    rfl
  · rw [encodeWith_of_le extra work (accept i s) (not_lt.mp hlong)]
    rfl

theorem deliverOrFail_cause (i : Instr) (r : Except Failure (List Byte)) (s : State) :
    (deliverOrFail r (accept i s)).errinfo.cause = recordedCause r := by
  cases r <;> rfl

theorem answerValid_cause (i : Instr) (r : Except Failure (List Byte)) (s : State) :
    (answerValid r (accept i s)).errinfo.cause = recordedCause r := by
  cases r <;> rfl

/-- The three tests of `decodeRaw` come before whatever is done with `raw` (R78). -/
theorem recordedCause_decodeRaw_bind (c : Config) (t : List Byte)
    (k : List Byte → Except Failure (List Byte)) :
    recordedCause ((decodeRaw c t).bind k) =
      if c.nc < t.length then 5
      else if t.any fun ch => (alphaIndex c ch).isNone then 2
      else if c.nb < (rawOf (digitValues c t)).length then 5
      else recordedCause (k (rawOf (digitValues c t))) := by
  rcases Nat.lt_or_ge c.nc t.length with hlong | hlen
  · rw [if_pos hlong, decodeRaw_of_nc_lt c t hlong]
    rfl
  rw [if_neg hlen.not_gt]
  cases hoff : firstOffender c t with
  | some p =>
    have hbad : (t.any fun ch => (alphaIndex c ch).isNone) = true := by
      rw [← List.findIdx?_isSome, ← firstOffender, hoff, Option.isSome_some]
    rw [if_pos hbad, decodeRaw_of_offender c t hlen p hoff]
    rfl
  | none =>
    have hgood : (t.any fun ch => (alphaIndex c ch).isNone) = false := by
      rw [← List.findIdx?_isSome, ← firstOffender, hoff, Option.isSome_none]
    rw [hgood, if_neg Bool.false_ne_true,
      decodeRaw_of_digits c t hlen _ (map_alphaIndex_of_firstOffender_eq_none c t hoff)]
    split_ifs <;> rfl

theorem decodeRaw_bind_ok (c : Config) (t : List Byte) :
    (decodeRaw c t).bind .ok = decodeRaw c t := by
  cases decodeRaw c t <;> rfl

theorem decodeRaw_bind_verifyRaw (c : Config) (t : List Byte) :
    (decodeRaw c t).bind verifyRaw = checkDecode c t := by
  cases hraw : decodeRaw c t with
  | error f => exact (checkDecode_of_error hraw).symm
  | ok raw => exact (checkDecode_of_ok hraw).symm

theorem recordedCause_verifyRaw (raw : List Byte) :
    recordedCause (verifyRaw raw) =
      if raw.length < 4 then 3
      else if raw.drop (raw.length - 4) ≠ checksum (raw.take (raw.length - 4)) then 4 else 0 := by
  split_ifs with hshort hck
  · rw [verifyRaw_of_short raw hshort]
    rfl
  · rw [verifyRaw_of_mismatch raw (not_lt.mp hshort) hck]
    rfl
  · rw [verifyRaw_of_match raw (not_lt.mp hshort) (not_not.mp hck)]
    rfl

/-- Settles O54: the outcome of the source's tests is what each command records. -/
theorem firstFailingTestDecides : Obligations.FirstFailingTestDecides := by
  intro s hs t raw bad
  have hlen : t.length = s.clen.toNat := sourceChars_length s
  refine ⟨⟨_, exec_of_idle _ s hs, encodeWith_cause .b58enc 0 id s⟩,
    ⟨_, exec_of_idle _ s hs, encodeWith_cause .b58chkEnc Config.ckLen (fun p => p ++ checksum p) s⟩,
    ⟨_, exec_of_idle _ s hs, ?raw⟩, fun i hi => ⟨_, exec_of_idle i s hs, ?checked⟩⟩
  case raw =>
    rw [commandBody, accept_cfg, sourceChars_accept, deliverOrFail_cause, ← decodeRaw_bind_ok,
      recordedCause_decodeRaw_bind, sourceChars_length]
    rfl
  case checked =>
    have hbody :
        (commandBody i (accept i s)).errinfo.cause = recordedCause (checkDecode s.cfg t) := by
      rcases hi with rfl | rfl <;> rw [commandBody, accept_cfg, sourceChars_accept]
      · exact deliverOrFail_cause _ _ s
      · exact answerValid_cause _ _ s
    rw [hbody, ← decodeRaw_bind_verifyRaw, recordedCause_decodeRaw_bind, recordedCause_verifyRaw,
      hlen]

end Sys2Proof.Machine
end
